-- ==== Sys2Proof/Word.lean ====
section
/-! DEFINITION. The widths of the block's words, entries and port indices (00_scope.md R4, R5; 20_memory.md R40). -/

namespace Sys2Proof

/-- A 32-bit word: the command word, a host-visible register, an entry of WBUF, OVF and OBUF (R4, R24). -/
abbrev Word := BitVec 32

/-- An IBUF entry: 33-bit two's complement, -2^32 <= v < 2^32 (R5, VIN; R24). -/
abbrev Element := BitVec 33

/-- The index on a host port: 24 bits (20_memory.md R40). -/
abbrev PortIndex := BitVec 24

end Sys2Proof
end

