-- ==== Sys2Proof/Syntax.lean ====
section
/-! DEFINITION. The five commands, one constructor per row of spec/opcode_table.json (30_encoding.md R61 to R64),
what the decoder answers (R65), and the assembler's lines (R68). -/

namespace Sys2Proof

/-- A command. Operands are the unsigned integers the fields stand for (R62); `Instr.wellFormed` bounds them. -/
inductive Instr where
  /-- `CONFIG`: choose the layout and start empty (40_command_interface.md R83). -/
  | config (modef mbf : Nat)
  /-- `COMPRESS n`: pack IBUF[0..n-1] (R84). -/
  | compress (n : Nat)
  /-- `GET i`: decode one element (R85). -/
  | get (i : Nat)
  /-- `DECOMPRESS`: decode everything into OBUF (R86). -/
  | decompress
  /-- `SIZE`: bytes of storage in use (R87). -/
  | size
deriving DecidableEq, Repr

/-- The decoder's answer: a command, or the illegal word itself (R65, `ILLEGAL(w)`). -/
inductive Decoded where
  | command (i : Instr)
  | illegal (w : Word)
deriving DecidableEq, Repr

/-- A line of the assembler (R68). -/
inductive AsmLine where
  | configNonspan
  | configSpan
  | configOverflow (mb : Nat)
  | configRaw (modef mbf : Nat)
  | compress (n : Nat)
  | get (i : Nat)
  | decompress
  | size
  | word (w : Nat)
deriving DecidableEq, Repr

end Sys2Proof
end

