-- ==== Sys2Proof/WellFormed.lean ====
section
/-! DEFINITION. Which commands an encoding can hold (30_encoding.md R62) and which assembler lines are accepted
(R68). -/

namespace Sys2Proof

/-- Every operand is in the range of its field: MODEF 2 bits, MBF 6 bits, ARG 24 bits (R62). -/
def Instr.wellFormed : Instr → Bool
  | .config modef mbf => decide (modef < 4) && decide (mbf < 64)
  | .compress n => decide (n < 16777216)
  | .get i => decide (i < 16777216)
  | .decompress => true
  | .size => true

/-- Every operand is in the range the assembler's table states (R68). -/
def AsmLine.wellFormed : AsmLine → Bool
  | .configNonspan => true
  | .configSpan => true
  | .configOverflow mb => decide (mb ≤ 63)
  | .configRaw modef mbf => decide (modef ≤ 3) && decide (mbf ≤ 63)
  | .compress n => decide (n < 16777216)
  | .get i => decide (i < 16777216)
  | .decompress => true
  | .size => true
  | .word w => decide (w < 4294967296)

end Sys2Proof
end

