-- ==== Sys2Proof/Decode.lean ====
section
/-! DEFINITION. The decoder, total on 32-bit words (30_encoding.md R65), the encoder (R61), the opcode table's
match and mask (R64), the assembler (R68). -/

namespace Sys2Proof

/-- `bits[hi:lo]` of a value (00_scope.md R6). -/
def bits (w : Word) (hi lo : Nat) : Nat := w.toNat / 2 ^ lo % 2 ^ (hi - lo + 1)

/-- R65: the command a word is, or the illegal word by name. It reads nothing but the word. -/
def decode (w : Word) : Decoded :=
  if bits w 31 28 = 1 ∧ bits w 27 10 = 0 ∧ bits w 7 6 = 0 then .command (.config (bits w 9 8) (bits w 5 0))
  else if bits w 31 28 = 2 ∧ bits w 27 24 = 0 then .command (.compress (bits w 23 0))
  else if bits w 31 28 = 3 ∧ bits w 27 24 = 0 then .command (.get (bits w 23 0))
  else if bits w 31 28 = 4 ∧ bits w 27 0 = 0 then .command .decompress
  else if bits w 31 28 = 5 ∧ bits w 27 0 = 0 then .command .size
  else .illegal w

/-- The word of a command, from the formats of R61: OP in bits 31:28, MODEF in 9:8, MBF in 5:0, ARG in 23:0. -/
def encode : Instr → Word
  | .config modef mbf => BitVec.ofNat 32 (1 * 2 ^ 28 + modef * 2 ^ 8 + mbf)
  | .compress n => BitVec.ofNat 32 (2 * 2 ^ 28 + n)
  | .get i => BitVec.ofNat 32 (3 * 2 ^ 28 + i)
  | .decompress => BitVec.ofNat 32 (4 * 2 ^ 28)
  | .size => BitVec.ofNat 32 (5 * 2 ^ 28)

/-- The `match` column of R64. -/
def rowMatch : Instr → Word
  | .config _ _ => 0x10000000
  | .compress _ => 0x20000000
  | .get _ => 0x30000000
  | .decompress => 0x40000000
  | .size => 0x50000000

/-- The `mask` column of R64. -/
def rowMask : Instr → Word
  | .config _ _ => 0xFFFFFCC0
  | .compress _ => 0xFF000000
  | .get _ => 0xFF000000
  | .decompress => 0xFFFFFFFF
  | .size => 0xFFFFFFFF

/-- The command the decoder reads from a table row's word: a command is one 32-bit word (R60), so the word is `w`
cut to `nbits` bits. -/
def decodeTableWord (nbits w : Nat) : Option Instr :=
  match decode (BitVec.ofNat 32 (w % 2 ^ nbits)) with
  | .command i => some i
  | .illegal _ => none

/-- R68: the word of an assembler line; a line with an operand outside its range is refused, not truncated. -/
def assemble (l : AsmLine) : Option Word :=
  if l.wellFormed then
    some (match l with
      | .configNonspan => BitVec.ofNat 32 0x10000000
      | .configSpan => BitVec.ofNat 32 0x10000100
      | .configOverflow mb => BitVec.ofNat 32 (0x10000200 + mb)
      | .configRaw modef mbf => BitVec.ofNat 32 (0x10000000 + modef * 256 + mbf)
      | .compress n => BitVec.ofNat 32 (0x20000000 + n)
      | .get i => BitVec.ofNat 32 (0x30000000 + i)
      | .decompress => BitVec.ofNat 32 0x40000000
      | .size => BitVec.ofNat 32 0x50000000
      | .word w => BitVec.ofNat 32 w)
  else none

end Sys2Proof
end

