-- ==== Sys2Proof/Config.lean ====
section
/-! DEFINITION. The parameter an implementation fixes and the free values, each an opaque constant: nothing can
evaluate one, so a statement holds whatever they are (92_eei_decisions.md, OPEN parameters; 93 U4, U11). -/

namespace Sys2Proof.Config

/-- NMAX - 1. Its type is the parameter's constraint, 1 <= NMAX <= 2^24 - 1 (R5, D6). -/
opaque nmaxPred : Fin 16777215

/-- The parameter NMAX as register 12 shows it after reset (R26). State carries it in its field `nmax`, which no
step changes, so statements hold for every legal NMAX (log entry 3). -/
def nmax : BitVec 24 := BitVec.ofNat 24 (nmaxPred.val + 1)

/-- FREE VALUE (R216, U4): what IBUF[index] holds when the host has not written it since the reset event numbered
`resets`. The same on every read until written or reset; nothing relates it across resets (log entry 4). -/
opaque ibufUnwritten (resets index : Nat) : Element

/-- FREE VALUE (R216): a WBUF cell nothing has written yet. No host read shows it (R28) (log entry 5). -/
opaque wbufUnwritten (index : Nat) : Word

/-- FREE VALUE (R216): an OVF cell nothing has written yet. No host read shows it (R28) (log entry 5). -/
opaque ovfUnwritten (index : Nat) : Word

/-- FREE VALUE (R216): an OBUF cell nothing has written yet. No host read shows it (R28) (log entry 5). -/
opaque obufUnwritten (index : Nat) : Word

end Sys2Proof.Config
end

