-- ==== Sys2Proof/Machine/State.lean ====
section
/-! DEFINITION. The machine's state as plain data: the registers of 10_state.md R12 to R26, the four memories of
R24, the sequencer registers of R29, and three fields of the model's own (the host's moves, what the last host read
returned, the count of resets); State.reset (70_reset_and_hazards.md R215, R216). -/

namespace Sys2Proof.Machine

/-- The layout register MODE, a closed set with codes 0, 1, 2; "the value 3 is never held" (R2, R14). -/
inductive Mode where
  | nonspan
  | span
  | overflow
deriving DecidableEq, Repr

/-- One of the block's memories (R24): the (index, entry) pairs of the entries written so far, indices strictly
rising. An index that is not listed has had no value written to it (log entry 10). -/
abbrev Memory (width : Nat) := List (Nat × BitVec width)

/-- The names of the four memories (R24). -/
inductive Space where
  | ibuf
  | wbuf
  | ovf
  | obuf
deriving DecidableEq, Repr

/-- The sequencer's six working registers, with the widths of R29. -/
structure Sequencer where
  j : BitVec 25
  cur : BitVec 32
  aidx : BitVec 27
  boff : BitVec 5
  maxv : BitVec 32
  p : BitVec 24
deriving DecidableEq, Repr

/-- The sequencer between commands, when it holds no value (R29). DESIGN CHOICE, log entry 6: all zero. -/
def Sequencer.idle : Sequencer := { j := 0, cur := 0, aidx := 0, boff := 0, maxv := 0, p := 0 }

/-- A move of the host, the rows of R230. There is no move that writes WBUF, OVF or OBUF: "no port exists". -/
inductive HostMove where
  | reset
  | readReg (r : PortIndex)
  | writeReg (r : PortIndex) (w : Word)
  | readEntry (space : Space) (a : PortIndex)
  | writeIbuf (j : PortIndex) (v : Element)
deriving DecidableEq, Repr

/-- What a host read returns: a 32-bit word, or a 33-bit IBUF entry (R12, R40). -/
inductive HostData where
  | word (w : Word)
  | element (v : Element)
deriving DecidableEq, Repr

/-- Why a step stops with a fault. The six error kinds of R190 are no such faults: they are next states. -/
inductive Fault where
  /-- Raised by `step` when BUSY = 1 and the host has no move: a state in the middle of a command, which no step
  leads to, since a command is one atomic transition (R80). Safe (log entry 2). -/
  | midCommand
deriving DecidableEq, Repr

/-- Why a step has no meaning. -/
inductive Refusal where
  /-- Raised by `exec` for an instruction with no meaning yet. No arm raises it. Safe. -/
  | notModelled (mnemonic : String)
  /-- Raised by `hostMove` for a host move other than reset and a STATUS read while BUSY = 1: "not defined; a model
  has no such move" (R225, R230, U1, U3). Safe (log entry 2). -/
  | busyAccess
deriving DecidableEq, Repr

structure State where
  /-- STATUS bit 0 (R21). -/
  busy : Bool
  /-- STATUS bits 11:8 (R21). -/
  errcode : BitVec 4
  /-- ERRINFO (R22). -/
  errinfo : Word
  /-- RES (R23). -/
  res : Word
  /-- MODE (R14). -/
  mode : Mode
  /-- MAIN_BITS (R15). -/
  mainBits : BitVec 6
  /-- SENTINEL (R16). -/
  sentinel : Word
  /-- N (R17). -/
  n : BitVec 24
  /-- K (R18). -/
  k : BitVec 6
  /-- WC (R19). -/
  wc : BitVec 25
  /-- OC (R20). -/
  oc : BitVec 24
  /-- OLEN (R25). -/
  olen : BitVec 24
  /-- NMAX (R26): the parameter; no step changes it. -/
  nmax : BitVec 24
  /-- IBUF (R24). -/
  ibuf : Memory 33
  /-- WBUF (R24). -/
  wbuf : Memory 32
  /-- OVF (R24). -/
  ovf : Memory 32
  /-- OBUF (R24). -/
  obuf : Memory 32
  /-- The sequencer registers (R29). -/
  seq : Sequencer
  /-- The model's own: how many reset events there have been; it selects IBUF's free values (log entry 4). -/
  resets : Nat
  /-- The model's own: the host's moves to come, the next one first (R230, log entry 1). -/
  moves : List HostMove
  /-- The model's own: what the last host read returned (log entry 9). -/
  answer : Option HostData
deriving DecidableEq, Repr

/-- The state right after the first reset of a block built with the given NMAX (R215, R216): the empty codec in the
spanning layout, nothing written to any memory, no host move yet. -/
def State.resetAt (nmax : BitVec 24) : State where
  busy := false
  errcode := 0
  errinfo := 0
  res := 0
  mode := .span
  mainBits := 0
  sentinel := 0
  n := 0
  k := 0
  wc := 0
  oc := 0
  olen := 0
  nmax := nmax
  ibuf := []
  wbuf := []
  ovf := []
  obuf := []
  seq := .idle
  resets := 0
  moves := []
  answer := none

/-- The machine right after reset, with the parameter NMAX left open (R5, R215). -/
def State.reset : State := State.resetAt Config.nmax

end Sys2Proof.Machine
end

