-- ==== Sys2Proof/Machine/Operands.lean ====
section
/-! DEFINITION. The bit-address calculator and word-boundary arithmetic (41_bit_address.md), on unbounded naturals
as 00_scope.md R6 says, and the readings of an IBUF entry as a number (R7, R112). -/

namespace Sys2Proof.Machine

/-- `ceil(a / b) = (a + b - 1) div b` (R6). -/
def ceilDiv (a b : Nat) : Nat := (a + b - 1) / b

/-- R101: the least b with x < 2^b. -/
def bitLength (x : Nat) : Nat := if x = 0 then 0 else x.log2 + 1

/-- R101: the element width of a sequence whose maximum is mx. -/
def widthOf (mx : Nat) : Nat := if mx = 0 then 1 else bitLength mx

/-- R102: 2^k - 1, the power taken in unbounded integers, so that mask 32 is all ones. -/
def mask (k : Nat) : Word := BitVec.ofNat 32 (2 ^ k - 1)

/-- R103: elements per word of the non-spanning layout. -/
def epw (k : Nat) : Nat := 32 / k

/-- R103: words of n elements of k bits in the non-spanning layout. -/
def wcNonspan (n k : Nat) : Nat := ceilDiv n (epw k)

/-- R104: words of n elements of k bits in the spanning layout. -/
def wcSpan (n k : Nat) : Nat := ceilDiv (n * k) 32

/-- R105: the bit address of element i. -/
def spanCursor (i k : Nat) : Nat := i * k

/-- R105: `cursor div 32`. -/
def arrayIndex (cursor : Nat) : Nat := cursor / 32

/-- R105: `cursor mod 32`. -/
def bitOffset (cursor : Nat) : Nat := cursor % 32

/-- R106: the bits left in the word from a bit offset on. -/
def availBits (bo : Nat) : Nat := 32 - bo

/-- R106: whether a field of k bits at a bit offset crosses into the next word. -/
def crosses (bo k : Nat) : Bool := decide (32 < bo + k)

/-- R106: the bits of a crossing field that go to the next word. -/
def remBits (bo k : Nat) : Nat := k - availBits bo

/-- R107: the word of element i in the non-spanning layout. -/
def nonspanIndex (i k : Nat) : Nat := i / epw k

/-- R107: the bit offset of element i in its word in the non-spanning layout. -/
def nonspanOffset (i k : Nat) : Nat := i % epw k * k

/-- R112: the one thing done with an entry's sign, the test `IBUF[j] < 0`. -/
def isNegative (v : Element) : Bool := v.msb

/-- The 32-bit value of an entry that is not negative: bits 31:0 (R5, R194). -/
def elementWord (v : Element) : Word := v.setWidth 32

/-- The larger of two words, unsigned (R29, MAXV). -/
def wordMax (a b : Word) : Word := if a < b then b else a

/-- U12: an integer as an IBUF entry; one the port cannot carry is refused, not truncated. -/
def elementOfInt (v : Int) : Option Element :=
  if -4294967296 ≤ v ∧ v < 4294967296 then some (BitVec.ofInt 33 v) else none

/-- R42: byte b of a word in the little-endian byte view a platform may add; the block itself has no byte access. -/
def wordByte (w : Word) (b : Nat) : BitVec 8 := w.extractLsb' (8 * b) 8

/-- R14: the code of a layout. -/
def modeCode : Mode → BitVec 2
  | .nonspan => 0
  | .span => 1
  | .overflow => 2

end Sys2Proof.Machine
end

