-- ==== Sys2Proof/Machine/Flags.lean ====
section
/-! DEFINITION. The error kinds with their codes (60_exceptions.md R190) and the STATUS word (10_state.md R21), the
block's only flags. -/

namespace Sys2Proof.Machine

/-- The six error kinds (R190). -/
inductive ErrorKind where
  | invalidIndex
  | unknownStrategy
  | invalidConfiguration
  | unsupportedValue
  | capacityExceeded
  | illegalCommand
deriving DecidableEq, Repr

/-- R190: the code of an error kind in STATUS.ERRCODE. -/
def errorCode : ErrorKind → BitVec 4
  | .invalidIndex => 1
  | .unknownStrategy => 2
  | .invalidConfiguration => 3
  | .unsupportedValue => 4
  | .capacityExceeded => 5
  | .illegalCommand => 6

/-- R12, R21: STATUS as one word: BUSY in bit 0, ERRCODE in bits 11:8, all other bits 0. -/
def statusWord (busy : Bool) (errcode : BitVec 4) : Word :=
  BitVec.ofNat 32 (errcode.toNat * 256 + busy.toNat)

end Sys2Proof.Machine
end

