-- ==== Sys2Proof/Machine/Ops.lean ====
section
/-! DEFINITION. The named operations every command is written in: the memories (20_memory.md R44), the sequencer
registers (10_state.md R29), loops over elements (00_scope.md R7), the codec registers, and the two ways a command
completes: `complete` (40_command_interface.md R82) and `raise` (60_exceptions.md R195), and the reset event (R215). -/

namespace Sys2Proof.Machine

/-! ### A memory as a list -/

/-- The entry at index i, if one has been written. -/
def Memory.lookup {width : Nat} : Memory width → Nat → Option (BitVec width)
  | [], _ => none
  | (a, v) :: m, i => if a = i then some v else Memory.lookup m i

/-- R44: replace the whole entry at index i; the list stays sorted by index. -/
def Memory.store {width : Nat} : Memory width → Nat → BitVec width → Memory width
  | [], i, x => [(i, x)]
  | (a, v) :: m, i, x =>
    if i < a then (i, x) :: (a, v) :: m
    else if i = a then (i, x) :: m
    else (a, v) :: Memory.store m i x

/-- The canonical form: indices strictly rising. (A listed entry is `some`, an unlisted one `none`, so no listed
entry equals what an unlisted one reads as.) -/
def Memory.wf {width : Nat} : Memory width → Bool
  | [] => true
  | [_] => true
  | (a, _) :: (b, y) :: m => decide (a < b) && Memory.wf ((b, y) :: m)

/-- Every listed index is below a depth (R24). -/
def Memory.within {width : Nat} (m : Memory width) (depth : Nat) : Bool := m.all fun e => decide (e.1 < depth)

/-! ### The datapath's reads and writes (R7, R44: no live-range gating) -/

/-- `IBUF[j]` (R7); an entry the host has not written since reset reads as its free value (R216, U4). -/
def readIbuf (s : State) (j : Nat) : Element :=
  (Memory.lookup s.ibuf j).getD (Config.ibufUnwritten s.resets j)

/-- `WBUF[a]` (R7). -/
def readWbuf (m : Memory 32) (a : Nat) : Word := (Memory.lookup m a).getD (Config.wbufUnwritten a)

/-- `OVF[p]` (R7). -/
def readOvf (m : Memory 32) (p : Nat) : Word := (Memory.lookup m p).getD (Config.ovfUnwritten p)

/-- `OBUF[j]` (R7). -/
def readObuf (m : Memory 32) (j : Nat) : Word := (Memory.lookup m j).getD (Config.obufUnwritten j)

/-- `WBUF[a] <- x` (R7). -/
def writeWbuf (a : Nat) (x : Word) (s : State) : State := { s with wbuf := Memory.store s.wbuf a x }

/-- `WBUF[a] <- WBUF[a] | x` (R44: an OR is a whole-word read and write). -/
def orWbuf (a : Nat) (x : Word) (s : State) : State := writeWbuf a (readWbuf s.wbuf a ||| x) s

/-- `OVF[p] <- x` (R7). -/
def writeOvf (p : Nat) (x : Word) (s : State) : State := { s with ovf := Memory.store s.ovf p x }

/-- `OBUF[j] <- x` (R7). -/
def writeObuf (j : Nat) (x : Word) (s : State) : State := { s with obuf := Memory.store s.obuf j x }

/-! ### The sequencer registers (R29) -/

/-- `J <- j`. -/
def setJ (j : Nat) (s : State) : State := { s with seq := { s.seq with j := BitVec.ofNat 25 j } }

/-- `CUR <- c`. -/
def setCur (c : Nat) (s : State) : State := { s with seq := { s.seq with cur := BitVec.ofNat 32 c } }

/-- `AIDX <- c div 32; BOFF <- c mod 32` for a cursor c (R105). -/
def setAddr (c : Nat) (s : State) : State :=
  { s with seq := { s.seq with aidx := BitVec.ofNat 27 (arrayIndex c), boff := BitVec.ofNat 5 (bitOffset c) } }

/-- `MAXV <- v`. -/
def setMaxv (v : Word) (s : State) : State := { s with seq := { s.seq with maxv := v } }

/-- `MAXV <- max(MAXV, v)`. -/
def raiseMaxv (v : Word) (s : State) : State := setMaxv (wordMax s.seq.maxv v) s

/-- `P <- p`. -/
def setP (p : Nat) (s : State) : State := { s with seq := { s.seq with p := BitVec.ofNat 24 p } }

/-! ### Loops (R7: ascending, no iteration when the range is empty) -/

/-- `for a in 0..count-1: body a`. -/
def forEach (body : Nat → State → State) : Nat → State → State
  | 0, s => s
  | c + 1, s => body c (forEach body c s)

/-- `for j in 0..count-1: body j`, with J the element index (R29). -/
def forElements (body : Nat → State → State) (count : Nat) (s : State) : State :=
  forEach (fun j t => body j (setJ j t)) count s

/-- `for a in 0..wc-1: WBUF[a] <- 0` (D14). -/
def clearWords (wc : Nat) (s : State) : State := forEach (fun a t => writeWbuf a 0 t) wc s

/-- The least j < count for which a test holds (R84: the scan is in ascending j). -/
def leastIndex (test : Nat → Bool) : Nat → Option Nat
  | 0 => none
  | c + 1 =>
    match leastIndex test c with
    | some j => some j
    | none => if test c then some c else none

/-! ### Registers written together, completion, errors, reset -/

/-- `N <- n; K <- k; WC <- wc; OC <- oc`. -/
def setCodec (n k wc oc : Nat) (s : State) : State :=
  { s with n := BitVec.ofNat 24 n, k := BitVec.ofNat 6 k, wc := BitVec.ofNat 25 wc, oc := BitVec.ofNat 24 oc }

/-- R82, R80: successful completion. The sequencer holds no value afterwards (R29, log entry 6). -/
def complete (s : State) : State := { s with errcode := 0, errinfo := 0, busy := false, seq := .idle }

/-- R195: error completion, the one shared operation of every error: ERRCODE, ERRINFO and BUSY are written, every
other register and every memory entry keeps its value. -/
def raise (e : ErrorKind) (info : Word) (s : State) : State :=
  { s with errcode := errorCode e, errinfo := info, busy := false }

/-- R215, R216: the reset event, from any state, busy or not. Registers take their reset values, NMAX reads the
parameter as always, the cells of WBUF, OVF and OBUF are not written, and IBUF holds no known value until written
(a new number of resets selects new free values). The host's own fields are not the block's to reset (log entry 1). -/
def resetEvent (s : State) : State :=
  { State.resetAt s.nmax with
    wbuf := s.wbuf, ovf := s.ovf, obuf := s.obuf
    resets := s.resets + 1
    moves := s.moves, answer := s.answer }

end Sys2Proof.Machine
end

