-- ==== Sys2Proof/Machine/Nonspan.lean ====
section
/-! DEFINITION. The non-spanning layout, MODE 0 (42_nonspanning.md). -/

namespace Sys2Proof.Machine

/-- The pass over IBUF that finds the largest value (R121, R136). -/
def scanMax (n : Nat) (s : State) : State :=
  forElements (fun j t => raiseMaxv (elementWord (readIbuf t j)) t) n (setMaxv 0 s)

/-- The loop body of R121: `WBUF[wi] <- WBUF[wi] | (IBUF[j] << bo)`. -/
def packNonspan (k j : Nat) (s : State) : State :=
  orWbuf (nonspanIndex j k) (elementWord (readIbuf s j) <<< nonspanOffset j k) s

/-- R121: the body of `COMPRESS n` in mode 0, n >= 1. -/
def compressNonspan (n : Nat) (s : State) : State :=
  let s1 := scanMax n s
  let k := widthOf s1.seq.maxv.toNat
  let wc := wcNonspan n k
  setCodec n k wc 0 (forElements (packNonspan k) n (clearWords wc s1))

/-- R123: element i of a word buffer of k-bit lanes. -/
def getNonspan (m : Memory 32) (i k : Nat) : Word :=
  (readWbuf m (nonspanIndex i k) >>> nonspanOffset i k) &&& mask k

/-- R124: the body of `DECOMPRESS` in mode 0. -/
def decompressNonspan (s : State) : State :=
  forElements (fun j t => writeObuf j (getNonspan t.wbuf j t.k.toNat) t) s.n.toNat s

end Sys2Proof.Machine
end

