-- ==== Sys2Proof/Machine/Spanning.lean ====
section
/-! DEFINITION. The spanning encoder (43_spanning_encoder.md) and decoder (44_spanning_decoder.md): MODE 1, and the
inner packer and reader of MODE 2. -/

namespace Sys2Proof.Machine

/-- R138: the two OR-writes of one field v of k bits at (AIDX, BOFF), the second "when present". -/
def orField (v : Word) (k wc : Nat) (s : State) : State :=
  let ai := s.seq.aidx.toNat
  let bo := s.seq.boff.toNat
  let m := v &&& mask k
  let s1 := orWbuf ai (m <<< bo) s
  if crosses bo k && decide (ai + 1 < wc) then orWbuf (ai + 1) (m >>> availBits bo) s1 else s1

/-- R138: `pack_span(v, k, wc)`. It reads CUR, sets AIDX and BOFF, ORs the field in and advances CUR by k. -/
def packSpan (v : Word) (k wc : Nat) (s : State) : State :=
  let c := s.seq.cur.toNat
  setCur (c + k) (orField v k wc (setAddr c s))

/-- R136: the body of `COMPRESS n` in mode 1, n >= 1. -/
def compressSpan (n : Nat) (s : State) : State :=
  let s1 := scanMax n s
  let k := widthOf s1.seq.maxv.toNat
  let wc := wcSpan n k
  setCodec n k wc 0
    (forElements (fun j t => packSpan (elementWord (readIbuf t j)) k wc t) n (setCur 0 (clearWords wc s1)))

/-- R151: `get_span(i, k)`: the k-bit field of element i. -/
def getSpan (m : Memory 32) (i k : Nat) : Word :=
  let ai := arrayIndex (spanCursor i k)
  let bo := bitOffset (spanCursor i k)
  let value := readWbuf m ai >>> bo
  let joined :=
    if availBits bo < k then value ||| ((readWbuf m (ai + 1) &&& mask (remBits bo k)) <<< availBits bo) else value
  joined &&& mask k

/-- R151: CUR, AIDX and BOFF take the address of element i. -/
def seekSpan (i k : Nat) (s : State) : State := setAddr (spanCursor i k) (setCur (spanCursor i k) s)

/-- R154: the body of `DECOMPRESS` in mode 1. -/
def decompressSpan (s : State) : State :=
  forElements (fun j t => writeObuf j (getSpan t.wbuf j t.k.toNat) (seekSpan j t.k.toNat t)) s.n.toNat s

end Sys2Proof.Machine
end

