-- ==== Sys2Proof/Machine/Overflow.lean ====
section
/-! DEFINITION. The overflow sentinel dispatcher and side-array manager, MODE 2 (45_overflow.md). -/

namespace Sys2Proof.Machine

/-- R167: whether a value is diverted to the side array: not below the sentinel, unsigned. -/
def diverts (v sentinel : Word) : Bool := !decide (v < sentinel)

/-- R167: the main-stream field of a value: itself, or the sentinel when it is diverted. -/
def dispatchField (v sentinel : Word) : Word := if diverts v sentinel then sentinel else v

/-- R169: the synthetic element, sentinel - 1. -/
def synthetic (sentinel : Word) : Word := sentinel - 1

/-- R168, R170: `OVF[P] <- v; P <- P + 1`. -/
def pushOvf (v : Word) (s : State) : State :=
  let p := s.seq.p.toNat
  setP (p + 1) (writeOvf p v s)

/-- The scan of R170: MAXV from the synthetic value up over the main-stream fields. -/
def scanFields (n : Nat) (s : State) : State :=
  forElements (fun j t => raiseMaxv (dispatchField (elementWord (readIbuf t j)) t.sentinel) t) n
    (setMaxv (synthetic s.sentinel) s)

/-- The loop body of R170: push or keep, then pack the field. -/
def packOverflow (k wc j : Nat) (s : State) : State :=
  let v := elementWord (readIbuf s j)
  packSpan (dispatchField v s.sentinel) k wc (if diverts v s.sentinel then pushOvf v s else s)

/-- R170: the body of `COMPRESS n` in mode 2, n >= 1. -/
def compressOverflow (n : Nat) (s : State) : State :=
  let s1 := scanFields n s
  let k := widthOf s1.seq.maxv.toNat
  let wc := wcSpan (n + 1) k
  let s2 := forElements (packOverflow k wc) n (setP 0 (setCur 0 (clearWords wc s1)))
  let s3 := packSpan (synthetic s.sentinel) k wc s2
  setCodec n k wc s3.seq.p.toNat s3

/-- R176: how many of the fields 0 to i-1 hold the sentinel. -/
def rank (m : Memory 32) (k : Nat) (sentinel : Word) : Nat → Nat
  | 0 => 0
  | i + 1 => rank m k sentinel i + (if getSpan m i k = sentinel then 1 else 0)

/-- R175: `get_overflow(i)`. -/
def getOverflow (s : State) (i : Nat) : Word :=
  let value := getSpan s.wbuf i s.k.toNat
  if value = s.sentinel then readOvf s.ovf (rank s.wbuf s.k.toNat s.sentinel i) else value

/-- The loop body of R178: one field, taking the next side-array entry where the field is the sentinel. -/
def unpackOverflow (j : Nat) (s : State) : State :=
  let value := getSpan s.wbuf j s.k.toNat
  let t := seekSpan j s.k.toNat s
  let p := t.seq.p.toNat
  if value = s.sentinel then setP (p + 1) (writeObuf j (readOvf t.ovf p) t) else writeObuf j value t

/-- R178: the body of `DECOMPRESS` in mode 2, one forward pass. -/
def decompressOverflow (s : State) : State := forElements unpackOverflow s.n.toNat (setP 0 s)

end Sys2Proof.Machine
end

