-- ==== Sys2Proof/Machine/Commands.lean ====
section
/-! DEFINITION. The five commands (40_command_interface.md R83 to R87): what each is as a transition of the whole
state, and its meaning as an outcome. Every meaning answers a next state, errors included (60_exceptions.md R195,
R203). -/

namespace Sys2Proof.Machine

/-- R83: the registers a successful CONFIG writes. -/
def configure (mode : Mode) (mainBits : Nat) (sentinel : Word) (s : State) : State :=
  setCodec 0 0 0 0
    { s with mode := mode, mainBits := BitVec.ofNat 6 mainBits, sentinel := sentinel, olen := 0, res := 0 }

/-- R83: `CONFIG modef, mbf`. -/
def config (modef mbf : Nat) (s : State) : State :=
  match modef with
  | 0 => complete (configure .nonspan 0 0 s)
  | 1 => complete (configure .span 0 0 s)
  | 2 =>
    if mbf < 1 ∨ 32 < mbf then raise .invalidConfiguration (BitVec.ofNat 32 mbf) s
    else complete (configure .overflow mbf (mask mbf) s)
  | other => raise .unknownStrategy (BitVec.ofNat 32 other) s

/-- R84: the body of COMPRESS for n >= 1, by layout. -/
def compressBody (n : Nat) (s : State) : State :=
  match s.mode with
  | .nonspan => compressNonspan n s
  | .span => compressSpan n s
  | .overflow => compressOverflow n s

/-- R84: `COMPRESS n`: both checks first, nothing written until they have passed. -/
def compress (n : Nat) (s : State) : State :=
  if s.nmax.toNat < n then raise .capacityExceeded (BitVec.ofNat 32 n) s
  else
    match leastIndex (fun j => isNegative (readIbuf s j)) n with
    | some j => raise .unsupportedValue (BitVec.ofNat 32 j) s
    | none => if n = 0 then complete (setCodec 0 0 0 0 s) else complete (compressBody n s)

/-- R85: the element decoder of the layout in force. -/
def element (s : State) (i : Nat) : Word :=
  match s.mode with
  | .nonspan => getNonspan s.wbuf i s.k.toNat
  | .span => getSpan s.wbuf i s.k.toNat
  | .overflow => getOverflow s i

/-- R151: a reader of the spanning datapath puts the address of element i into CUR, AIDX and BOFF. -/
def seekElement (i : Nat) (s : State) : State :=
  match s.mode with
  | .nonspan => s
  | .span => seekSpan i s.k.toNat s
  | .overflow => seekSpan i s.k.toNat s

/-- R85: `GET i`. -/
def get (i : Nat) (s : State) : State :=
  if s.n.toNat ≤ i then raise .invalidIndex (BitVec.ofNat 32 i) s
  else complete { seekElement i s with res := element s i }

/-- R86: the body of DECOMPRESS, by layout. -/
def decompressBody (s : State) : State :=
  match s.mode with
  | .nonspan => decompressNonspan s
  | .span => decompressSpan s
  | .overflow => decompressOverflow s

/-- R86: `DECOMPRESS`. -/
def decompress (s : State) : State :=
  let t := decompressBody s
  complete { t with olen := s.n }

/-- R87: `SIZE`: 4*WC + 4*OC bytes. -/
def size (s : State) : State :=
  complete { s with res := BitVec.ofNat 32 (4 * s.wc.toNat + 4 * s.oc.toNat) }

/-- The meaning of CONFIG (R83). -/
def execConfig (modef mbf : Nat) (s : State) : Host.Outcome State Fault Refusal := .next (config modef mbf s)

/-- The meaning of COMPRESS (R84). -/
def execCompress (n : Nat) (s : State) : Host.Outcome State Fault Refusal := .next (compress n s)

/-- The meaning of GET (R85). -/
def execGet (i : Nat) (s : State) : Host.Outcome State Fault Refusal := .next (get i s)

/-- The meaning of DECOMPRESS (R86). -/
def execDecompress (s : State) : Host.Outcome State Fault Refusal := .next (decompress s)

/-- The meaning of SIZE (R87). -/
def execSize (s : State) : Host.Outcome State Fault Refusal := .next (size s)

end Sys2Proof.Machine
end

