-- ==== Sys2Proof/Machine/Dispatch.lean ====
section
/-! DEFINITION. R81: each command to its meaning, one arm per constructor. -/

namespace Sys2Proof.Machine

def exec (i : Instr) (s : State) : Host.Outcome State Fault Refusal :=
  match i with
  | .config modef mbf => Sys2Proof.Machine.execConfig modef mbf s
  | .compress n => Sys2Proof.Machine.execCompress n s
  | .get j => Sys2Proof.Machine.execGet j s
  | .decompress => Sys2Proof.Machine.execDecompress s
  | .size => Sys2Proof.Machine.execSize s

end Sys2Proof.Machine
end

