-- ==== Sys2Proof/Machine/HostPort.lean ====
section
/-! DEFINITION. The host port: what each host move of 70_reset_and_hazards.md R230 does, and the issue of a command
(40_command_interface.md R80). -/

namespace Sys2Proof.Machine

/-- R12, R13, R27: what a host read of a register returns; CMD and the reserved indices read 0. -/
def regWord (r : Nat) (s : State) : Word :=
  match r with
  | 1 => statusWord s.busy s.errcode
  | 2 => s.res
  | 3 => s.errinfo
  | 4 => (modeCode s.mode).setWidth 32
  | 5 => s.mainBits.setWidth 32
  | 6 => s.sentinel
  | 7 => s.n.setWidth 32
  | 8 => s.k.setWidth 32
  | 9 => s.wc.setWidth 32
  | 10 => s.oc.setWidth 32
  | 11 => s.olen.setWidth 32
  | 12 => s.nmax.setWidth 32
  | _ => 0

/-- R28, R230: what a host read of a memory entry returns: IBUF below NMAX, the other memories inside their live
ranges, 0 elsewhere. -/
def entryData (space : Space) (a : Nat) (s : State) : HostData :=
  match space with
  | .ibuf => .element (if a < s.nmax.toNat then readIbuf s a else 0)
  | .wbuf => .word (if a < s.wc.toNat then readWbuf s.wbuf a else 0)
  | .ovf => .word (if a < s.oc.toNat then readOvf s.ovf a else 0)
  | .obuf => .word (if a < s.olen.toNat then readObuf s.obuf a else 0)

/-- R80: a command word is accepted (BUSY <- 1), decoded and run to its end, or it is illegal (R66, R197). -/
def issue (w : Word) (s : State) : Host.Outcome State Fault Refusal :=
  match decode w with
  | .command i => exec i { s with busy := true }
  | .illegal v => .next (raise .illegalCommand v { s with busy := true })

/-- R28, R230: a host write of IBUF[j]; ignored at and beyond NMAX. -/
def hostWriteIbuf (j : Nat) (v : Element) (s : State) : State :=
  if j < s.nmax.toNat then { s with ibuf := Memory.store s.ibuf j v } else s

/-- R225: a move that is allowed only while BUSY = 0. -/
def whenIdle (s : State) (o : Host.Outcome State Fault Refusal) : Host.Outcome State Fault Refusal :=
  if s.busy then .refused .busyAccess else o

/-- R230: one move of the host. Reset and a STATUS read are always allowed, every other move only when idle. -/
def hostMove (m : HostMove) (s : State) : Host.Outcome State Fault Refusal :=
  match m with
  | .reset => .next (resetEvent s)
  | .readReg r =>
    if r = 1 then .next { s with answer := some (.word (regWord 1 s)) }
    else whenIdle s (.next { s with answer := some (.word (regWord r.toNat s)) })
  | .writeReg r w => whenIdle s (if r = 0 then issue w s else .next s)
  | .readEntry space a => whenIdle s (.next { s with answer := some (entryData space a.toNat s) })
  | .writeIbuf j v => whenIdle s (.next (hostWriteIbuf j.toNat v s))

/-- The host's turn: it makes its next move. With no move left the block holds its state (R230); a state that is
busy with no move is in the middle of a command, which no step leads to (R80). -/
def hostTurn (s : State) : Host.Outcome State Fault Refusal :=
  match s.moves with
  | [] => if s.busy then .fault .midCommand else .next s
  | m :: rest => hostMove m { s with moves := rest }

/-- R69: `WRI j.., v0, v1, ...` as host moves; a value or index the port cannot carry is refused (U12). -/
def wri (j : Nat) : List Int → Option (List HostMove)
  | [] => some []
  | v :: vs =>
    match elementOfInt v, wri (j + 1) vs with
    | some e, some rest => if j < 16777216 then some (.writeIbuf (BitVec.ofNat 24 j) e :: rest) else none
    | _, _ => none

end Sys2Proof.Machine
end

