-- ==== Sys2Proof/Machine/Step.lean ====
section
/-! DEFINITION. One step of the machine: the host's next move, and what the block does with it. -/

namespace Sys2Proof.Machine

/-- One step (R9 item 1, R80, R230). -/
def step (s : State) : Host.Outcome State Fault Refusal := hostTurn s

/-- `s` with the command word `w` as the host's next move, a write to REG[CMD] with the block idle, so that the very
next step issues it (R13, R80; log entry 1). -/
def State.withFetchWord (s : State) (nbits w : Nat) : State :=
  { s with busy := false, moves := .writeReg 0 (BitVec.ofNat 32 (w % 2 ^ nbits)) :: s.moves }

end Sys2Proof.Machine
end

