-- ==== Sys2Proof/Safety.lean ====
section
/-! DEFINITION. What counts as a safe run, in the terms statements use: the invariants of 10_state.md R30, the
canonical form and depth of the memories (R24), what a command may leave changed, and the numbers a word buffer
stands for (41_bit_address.md, 43_spanning_encoder.md R139). -/

namespace Sys2Proof.Machine

/-! ### Frames -/

/-- Every entry of a memory reads as before. -/
def SameEntries {width : Nat} (before after : Memory width) : Prop :=
  ∀ a, Memory.lookup after a = Memory.lookup before a

/-- The registers of the codec state are unchanged (R8: MODE, MAIN_BITS, SENTINEL, N, K, WC, OC). -/
def SameCodecRegs (s t : State) : Prop :=
  t.mode = s.mode ∧ t.mainBits = s.mainBits ∧ t.sentinel = s.sentinel ∧
    t.n = s.n ∧ t.k = s.k ∧ t.wc = s.wc ∧ t.oc = s.oc

/-- The codec state as the host can read it is unchanged: its registers, WBUF and OVF (R8). -/
def SameCodec (s t : State) : Prop := SameCodecRegs s t ∧ SameEntries s.wbuf t.wbuf ∧ SameEntries s.ovf t.ovf

/-- The result holders are unchanged (R8: RES, OLEN, OBUF). -/
def SameResults (s t : State) : Prop := t.res = s.res ∧ t.olen = s.olen ∧ SameEntries s.obuf t.obuf

/-- What no command touches: NMAX, IBUF, and the model's own fields. -/
def SameOutside (s t : State) : Prop :=
  t.nmax = s.nmax ∧ SameEntries s.ibuf t.ibuf ∧ t.resets = s.resets ∧ t.moves = s.moves ∧ t.answer = s.answer

/-- The flags after a successful command (R82): BUSY, ERRCODE and ERRINFO are 0. -/
def Completed (t : State) : Prop := t.busy = false ∧ t.errcode = 0 ∧ t.errinfo = 0

/-- `t` is `s` after a command that failed with a code and an info word (R195): nothing else differs. -/
def FailedWith (code : BitVec 4) (info : Word) (s t : State) : Prop :=
  t = { s with errcode := code, errinfo := info, busy := false }

/-! ### Numbers -/

/-- The value of IBUF[j] as an unsigned number (for an entry that is not negative). -/
def inputValue (s : State) (j : Nat) : Nat := (readIbuf s j).toNat

/-- The first n entries of IBUF are in [0, 2^32) (R5, R84). -/
def InputSupported (s : State) (n : Nat) : Prop := ∀ j < n, 0 ≤ (readIbuf s j).toInt

/-- The integer whose base-2^k digits are v 0, ..., v (c-1) (R139). -/
def digitSum (v : Nat → Nat) (k : Nat) : Nat → Nat
  | 0 => 0
  | c + 1 => digitSum v k c + v c * 2 ^ (c * k)

/-- The k bits of the bitstream from bit i*k on, read from the two words they can lie in (R41, R105, R106). -/
def streamField (m : Memory 32) (i k : Nat) : Nat :=
  ((readWbuf m (i * k / 32)).toNat + (readWbuf m (i * k / 32 + 1)).toNat * 2 ^ 32) / 2 ^ (i * k % 32) % 2 ^ k

/-- How many j < c satisfy a test. -/
def countBelow (test : Nat → Bool) : Nat → Nat
  | 0 => 0
  | c + 1 => countBelow test c + (test c).toNat

/-- The main-stream value of a value v in overflow mode (R167). -/
def mainStream (v sentinel : Nat) : Nat := if v < sentinel then v else sentinel

/-- k is the least width, at least 1, that holds v 0, ..., v (n-1) (R18, R101). -/
def LeastWidth (v : Nat → Nat) (n k : Nat) : Prop :=
  1 ≤ k ∧ (∀ j < n, v j < 2 ^ k) ∧ ∀ b, 1 ≤ b → (∀ j < n, v j < 2 ^ b) → k ≤ b

/-! ### Invariants (R30) -/

/-- Where MODE is OVERFLOW, MAIN_BITS and SENTINEL are as CONFIG leaves them (R15, R16, R30). -/
def OverflowLegal (s : State) : Prop :=
  s.mode = .overflow →
    1 ≤ s.mainBits.toNat ∧ s.mainBits.toNat ≤ 32 ∧ s.sentinel.toNat = 2 ^ s.mainBits.toNat - 1

/-- The clauses of R30 on MODE, MAIN_BITS, SENTINEL, and OC outside overflow mode. -/
def ConfigLegal (s : State) : Prop :=
  OverflowLegal s ∧ (s.mode ≠ .overflow → s.mainBits = 0 ∧ s.sentinel = 0 ∧ s.oc = 0)

/-- R30: what N > 0 says of K and WC, by layout (and of OC in overflow mode). -/
def LayoutCounts (s : State) : Prop :=
  match s.mode with
  | .nonspan => s.wc.toNat = ceilDiv s.n.toNat (32 / s.k.toNat)
  | .span => s.wc.toNat = ceilDiv (s.n.toNat * s.k.toNat) 32
  | .overflow =>
    s.k = s.mainBits ∧ s.wc.toNat = ceilDiv ((s.n.toNat + 1) * s.k.toNat) 32 ∧ s.oc.toNat ≤ s.n.toNat

/-- R30, the register clauses (with 1 <= NMAX, R5). -/
structure RegInv (s : State) : Prop where
  idle : s.busy = false
  nmax_pos : 1 ≤ s.nmax.toNat
  n_le : s.n.toNat ≤ s.nmax.toNat
  olen_le : s.olen.toNat ≤ s.nmax.toNat
  k_zero : s.n = 0 ↔ s.k = 0
  wc_zero : s.n = 0 ↔ s.wc = 0
  oc_zero : s.n = 0 → s.oc = 0
  config : ConfigLegal s
  width : s.n ≠ 0 → 1 ≤ s.k.toNat ∧ s.k.toNat ≤ 32
  counts : s.n ≠ 0 → LayoutCounts s

/-- R30: "OC is the number of j < N whose main-stream field equals SENTINEL", in mode 2 with N > 0. -/
def OverflowCountInv (s : State) : Prop :=
  s.mode = .overflow → s.n ≠ 0 →
    s.oc.toNat = countBelow (fun j => decide (streamField s.wbuf j s.k.toNat = s.sentinel.toNat)) s.n.toNat

/-- R30: bit b of live word a belongs to no element field. -/
def UnusedBit (s : State) (a b : Nat) : Prop :=
  match s.mode with
  | .nonspan => 32 / s.k.toNat * s.k.toNat ≤ b ∨ s.n.toNat ≤ a * (32 / s.k.toNat) + b / s.k.toNat
  | .span => s.n.toNat * s.k.toNat ≤ 32 * a + b
  | .overflow => (s.n.toNat + 1) * s.k.toNat ≤ 32 * a + b

/-- R30: every bit of the live words that belongs to no element field is 0. -/
def UnusedBitsInv (s : State) : Prop :=
  ∀ a < s.wc.toNat, ∀ b < 32, UnusedBit s a b → (readWbuf s.wbuf a).getLsbD b = false

/-- R30, whole. -/
structure Inv (s : State) : Prop where
  regs : RegInv s
  overflowCount : OverflowCountInv s
  unusedBits : UnusedBitsInv s

/-- The four memories are in canonical form (log entry 10). -/
def MemoriesWf (s : State) : Prop :=
  Memory.wf s.ibuf = true ∧ Memory.wf s.wbuf = true ∧ Memory.wf s.ovf = true ∧ Memory.wf s.obuf = true

/-- Every listed entry is inside its memory's depth (R24, R109). -/
def MemoriesWithin (s : State) : Prop :=
  Memory.within s.ibuf s.nmax.toNat = true ∧ Memory.within s.wbuf (s.nmax.toNat + 1) = true ∧
    Memory.within s.ovf s.nmax.toNat = true ∧ Memory.within s.obuf s.nmax.toNat = true

end Sys2Proof.Machine
end

