-- ==== Sys2Proof/Certificates/Slice0/Obligations.lean ====
section
/-! DEFINITION. The statements for the provers, each from the numbered rules of spec/ that its docstring names.
Word-level values are stated on numbers (`toNat`), bit layouts in the closed forms of R139 and R120. -/

open Sys2Proof Sys2Proof.Machine

/-! ### Encoding (30_encoding.md) -/

/-- R65, 95_test_vectors.md part 8: words written out bit by bit from the formats, and what each decodes as. -/
def Obligations.DecodeSampleWords : Prop :=
  decode 0b00010000000000000000001000000011 = .command (.config 2 3) ∧
  decode 0b00010000000000000000001100101000 = .command (.config 3 40) ∧
  decode 0b00100000000000000000000000001010 = .command (.compress 10) ∧
  decode 0b00100000111111111111111111111111 = .command (.compress 16777215) ∧
  decode 0b00110000000000000000000000000110 = .command (.get 6) ∧
  decode 0b01000000000000000000000000000000 = .command .decompress ∧
  decode 0b01010000000000000000000000000000 = .command .size ∧
  decode 0b00010000000000000000010000000011 = .illegal 0x10000403 ∧
  decode 0b00010000000000000000001001000011 = .illegal 0x10000243 ∧
  decode 0b00111000000000000000000000000000 = .illegal 0x38000000 ∧
  decode 0b01000000000000000000000000000001 = .illegal 0x40000001

/-- R64: a word is the command of a row when `w & mask = match`, and a word that matches no row is illegal. -/
def Obligations.DecodeMatchesOpcodeTable : Prop :=
  ∀ w : Word,
    (w &&& 0xFFFFFCC0 = 0x10000000 ↔ ∃ modef mbf, decode w = .command (.config modef mbf)) ∧
    (w &&& 0xFF000000 = 0x20000000 ↔ ∃ n, decode w = .command (.compress n)) ∧
    (w &&& 0xFF000000 = 0x30000000 ↔ ∃ i, decode w = .command (.get i)) ∧
    (w &&& 0xFFFFFFFF = 0x40000000 ↔ decode w = .command .decompress) ∧
    (w &&& 0xFFFFFFFF = 0x50000000 ↔ decode w = .command .size) ∧
    ((w &&& 0xFFFFFCC0 ≠ 0x10000000 ∧ w &&& 0xFF000000 ≠ 0x20000000 ∧ w &&& 0xFF000000 ≠ 0x30000000 ∧
        w &&& 0xFFFFFFFF ≠ 0x40000000 ∧ w &&& 0xFFFFFFFF ≠ 0x50000000) ↔ decode w = .illegal w)

/-- R61, R62, R65: decoding the encoding of a well-formed command gives the command back, all operands. -/
def Obligations.EncodeThenDecode : Prop :=
  ∀ i : Instr, i.wellFormed = true → decode (encode i) = .command i

/-- R61, R65: a word that decodes to a command is the encoding of it, and the command is well-formed. -/
def Obligations.DecodeThenEncode : Prop :=
  ∀ (w : Word) (i : Instr), decode w = .command i → i.wellFormed = true ∧ encode i = w

/-- R68: the word of every assembler line, and the refusal of an operand outside its range. -/
def Obligations.AssemblerWords : Prop :=
  assemble .configNonspan = some 0x10000000 ∧ assemble .configSpan = some 0x10000100 ∧
  assemble .decompress = some 0x40000000 ∧ assemble .size = some 0x50000000 ∧
  (∀ mb, (mb ≤ 63 → ∃ w, assemble (.configOverflow mb) = some w ∧ w.toNat = 0x10000200 + mb) ∧
    (63 < mb → assemble (.configOverflow mb) = none)) ∧
  (∀ modef mbf,
    (modef ≤ 3 ∧ mbf ≤ 63 →
      ∃ w, assemble (.configRaw modef mbf) = some w ∧ w.toNat = 0x10000000 + modef * 256 + mbf) ∧
    (3 < modef ∨ 63 < mbf → assemble (.configRaw modef mbf) = none)) ∧
  (∀ n, (n < 2 ^ 24 → ∃ w, assemble (.compress n) = some w ∧ w.toNat = 0x20000000 + n) ∧
    (2 ^ 24 ≤ n → assemble (.compress n) = none)) ∧
  (∀ i, (i < 2 ^ 24 → ∃ w, assemble (.get i) = some w ∧ w.toNat = 0x30000000 + i) ∧
    (2 ^ 24 ≤ i → assemble (.get i) = none)) ∧
  ∀ v, (v < 2 ^ 32 → ∃ w, assemble (.word v) = some w ∧ w.toNat = v) ∧ (2 ^ 32 ≤ v → assemble (.word v) = none)

/-! ### The step (40_command_interface.md R80, 70_reset_and_hazards.md R230) -/

/-- R80, R81: when the host's next move writes to CMD a word that decodes to a command and the block is idle, the step
is the execution of that command, with BUSY set by the acceptance and the move used up; any other move is `hostMove` of
it with the move used up; `withFetchWord` places a command write (log entry 1). -/
def Obligations.StepRunsDecodedCommand : Prop :=
  (∀ (s : State) (m : HostMove) (rest : List HostMove), s.moves = m :: rest →
    step s = hostMove m { s with moves := rest }) ∧
  (∀ (s : State) (w : Word) (rest : List HostMove) (i : Instr),
    s.busy = false → s.moves = .writeReg 0 w :: rest → decode w = .command i →
      step s = exec i { s with moves := rest, busy := true }) ∧
  ∀ (s : State) (w : Word) (i : Instr), decode w = .command i →
    step (s.withFetchWord 32 w.toNat) = exec i { s with busy := true }

/-- R66, R197: writing to CMD, while idle, a word that is no command raises IllegalCommand with ERRINFO the word and
changes nothing else. -/
def Obligations.IllegalWordReported : Prop :=
  ∀ (s : State) (w : Word), s.busy = false →
    w &&& 0xFFFFFCC0 ≠ 0x10000000 → w &&& 0xFF000000 ≠ 0x20000000 → w &&& 0xFF000000 ≠ 0x30000000 →
    w ≠ 0x40000000 → w ≠ 0x50000000 →
      hostMove (.writeReg 0 w) s = .next { s with errcode := 6, errinfo := w }

/-- R203, R80: an idle block never stops: every step answers a next state, idle again; with no host move left it holds
its state (R230, log entry 17). -/
def Obligations.IdleBlockNeverStops : Prop :=
  ∀ s : State, s.busy = false →
    (∃ t, step s = .next t ∧ t.busy = false) ∧ (s.moves = [] → step s = .next s)

/-- R225, R230, U1, U3: while BUSY = 1 a STATUS read answers BUSY = 1 and the previous ERRCODE, a reset acts, and every
other host move is refused (log entry 2). -/
def Obligations.BusyHazard : Prop :=
  ∀ (s : State) (m : HostMove) (rest : List HostMove), s.busy = true → s.moves = m :: rest →
    (m = .readReg 1 → ∃ w : Word, step s = .next { s with moves := rest, answer := some (.word w) } ∧
      w.toNat = s.errcode.toNat * 256 + 1) ∧
    (m = .reset → ∃ t, step s = .next t ∧ t.busy = false) ∧
    (m ≠ .readReg 1 → m ≠ .reset → step s = .refused .busyAccess)

/-! ### Reset (70_reset_and_hazards.md) -/

/-- R215, R12: the registers of State.reset; NMAX is the open parameter, in its range (log entry 3). -/
def Obligations.ResetStateRegisters : Prop :=
  State.reset.busy = false ∧ State.reset.errcode = 0 ∧ State.reset.errinfo = 0 ∧ State.reset.res = 0 ∧
  State.reset.mode = .span ∧ State.reset.mainBits = 0 ∧ State.reset.sentinel = 0 ∧ State.reset.n = 0 ∧
  State.reset.k = 0 ∧ State.reset.wc = 0 ∧ State.reset.oc = 0 ∧ State.reset.olen = 0 ∧
  State.reset.nmax = Config.nmax ∧ 1 ≤ Config.nmax.toNat ∧ Config.nmax.toNat ≤ 2 ^ 24 - 1

/-- R215: whatever the state before, and whether or not a command was running, after the reset event every register
holds its reset value, and NMAX reads the parameter as always. -/
def Obligations.ResetEventRegisters : Prop :=
  ∀ s : State, ∃ t, hostMove .reset s = .next t ∧ t.busy = false ∧ t.errcode = 0 ∧ t.errinfo = 0 ∧ t.res = 0 ∧
    modeCode t.mode = 1 ∧ t.mainBits = 0 ∧ t.sentinel = 0 ∧ t.n = 0 ∧ t.k = 0 ∧ t.wc = 0 ∧ t.oc = 0 ∧
    t.olen = 0 ∧ t.nmax = s.nmax

/-- R216, R28: the reset event writes no cell of WBUF, OVF and OBUF, every host read of them then gives 0, and no IBUF
entry holds a known value. -/
def Obligations.ResetEventMemories : Prop :=
  ∀ s : State, ∃ t, hostMove .reset s = .next t ∧
    SameEntries s.wbuf t.wbuf ∧ SameEntries s.ovf t.ovf ∧ SameEntries s.obuf t.obuf ∧
    ∀ a, Memory.lookup t.ibuf a = none ∧ entryData .wbuf a t = .word 0 ∧ entryData .ovf a t = .word 0 ∧
      entryData .obuf a t = .word 0

/-- R217: a CONFIG to SPAN and a reset give the same registers when the CONFIG succeeds. -/
def Obligations.ConfigSpanMatchesReset : Prop :=
  ∀ (s : State) (mbf : Nat), ∃ t, exec (.config 1 mbf) s = .next t ∧ SameCodecRegs (resetEvent s) t ∧
    t.res = (resetEvent s).res ∧ t.olen = (resetEvent s).olen ∧ t.errcode = (resetEvent s).errcode ∧
    t.errinfo = (resetEvent s).errinfo ∧ t.busy = (resetEvent s).busy ∧ t.nmax = (resetEvent s).nmax

/-! ### CONFIG (R83) -/

/-- R83: CONFIG, whole: UnknownStrategy first, then InvalidConfiguration, else the layout is chosen and the codec is
empty, with nothing else changed. -/
def Obligations.ConfigChoosesLayout : Prop :=
  ∀ (s : State) (modef mbf : Nat), modef < 4 → mbf < 64 →
    ∃ t, exec (.config modef mbf) s = .next t ∧
      if modef = 3 then FailedWith 2 3 s t
      else if modef = 2 ∧ (mbf < 1 ∨ 32 < mbf) then FailedWith 3 (BitVec.ofNat 32 mbf) s t
      else
        Completed t ∧ (modeCode t.mode).toNat = modef ∧
        t.mainBits.toNat = (if modef = 2 then mbf else 0) ∧
        t.sentinel.toNat = (if modef = 2 then 2 ^ mbf - 1 else 0) ∧
        t.n = 0 ∧ t.k = 0 ∧ t.wc = 0 ∧ t.oc = 0 ∧ t.olen = 0 ∧ t.res = 0 ∧
        SameOutside s t ∧ SameEntries s.wbuf t.wbuf ∧ SameEntries s.ovf t.ovf ∧ SameEntries s.obuf t.obuf ∧
        ∀ a, entryData .wbuf a t = .word 0 ∧ entryData .ovf a t = .word 0 ∧ entryData .obuf a t = .word 0

/-! ### Errors (60_exceptions.md) -/

/-- R190, R198: which error kind a well-formed command ends with, in every state, and 0 when it succeeds. -/
def Obligations.ErrorKindTable : Prop :=
  ∀ (i : Instr) (s : State), i.wellFormed = true → ∃ t, exec i s = .next t ∧ t.busy = false ∧
    match i with
    | .config modef mbf =>
      t.errcode = if modef = 3 then 2 else if modef = 2 ∧ (mbf < 1 ∨ 32 < mbf) then 3 else 0
    | .compress n =>
      (s.nmax.toNat < n → t.errcode = 5) ∧
      (n ≤ s.nmax.toNat → ¬ InputSupported s n → t.errcode = 4) ∧
      (n ≤ s.nmax.toNat → InputSupported s n → t.errcode = 0)
    | .get j => t.errcode = if s.n.toNat ≤ j then 1 else 0
    | .decompress => t.errcode = 0
    | .size => t.errcode = 0

/-- R195: errors are precise: a failing command has no effect but the writes of ERRCODE, ERRINFO and BUSY. -/
def Obligations.FailingCommandIsPrecise : Prop :=
  ∀ (i : Instr) (s t : State), exec i s = .next t → t.errcode ≠ 0 → FailedWith t.errcode t.errinfo s t

/-- R196: COMPRESS n with n > NMAX raises CapacityExceeded with ERRINFO n, whatever IBUF holds. -/
def Obligations.CompressOverCapacity : Prop :=
  ∀ (s : State) (n : Nat), s.nmax.toNat < n →
    ∃ t, exec (.compress n) s = .next t ∧ FailedWith 5 (BitVec.ofNat 32 n) s t

/-- R194, R84: COMPRESS n over a negative entry raises UnsupportedValue with the least such index. -/
def Obligations.CompressNegativeInput : Prop :=
  ∀ (s : State) (n j : Nat), n ≤ s.nmax.toNat → j < n → (readIbuf s j).toInt < 0 → InputSupported s j →
    ∃ t, exec (.compress n) s = .next t ∧ FailedWith 4 (BitVec.ofNat 32 j) s t

/-- R191: GET i with i >= N raises InvalidIndex with ERRINFO i, in every mode; with N = 0 every GET does. -/
def Obligations.GetOutOfRange : Prop :=
  ∀ (s : State) (i : Nat), s.n.toNat ≤ i →
    ∃ t, exec (.get i) s = .next t ∧ FailedWith 1 (BitVec.ofNat 32 i) s t

/-! ### COMPRESS (R84, R121, R136, R170) -/

/-- R84, C1: COMPRESS 0 gives the empty state in every mode, without a synthetic element. -/
def Obligations.CompressEmptyInput : Prop :=
  ∀ s : State, ∃ t, exec (.compress 0) s = .next t ∧ Completed t ∧ t.n = 0 ∧ t.k = 0 ∧ t.wc = 0 ∧ t.oc = 0 ∧
    t.mode = s.mode ∧ t.mainBits = s.mainBits ∧ t.sentinel = s.sentinel ∧ SameResults s t ∧ SameOutside s t ∧
    SameEntries s.wbuf t.wbuf ∧ SameEntries s.ovf t.ovf

/-- R120, R121: COMPRESS in mode 0: the least width, the word count, and every bit of every live word: lane l of word a
holds element a*e + l, all other bits 0. -/
def Obligations.CompressNonspanPacks : Prop :=
  ∀ (s : State) (n : Nat), s.mode = .nonspan → 1 ≤ n → n ≤ s.nmax.toNat → InputSupported s n →
    ∃ t, exec (.compress n) s = .next t ∧ Completed t ∧ t.n.toNat = n ∧ t.oc = 0 ∧
      LeastWidth (inputValue s) n t.k.toNat ∧ t.wc.toNat = ceilDiv n (32 / t.k.toNat) ∧
      ∀ a < t.wc.toNat, ∀ b < 32, (readWbuf t.wbuf a).getLsbD b =
        (decide (b < 32 / t.k.toNat * t.k.toNat ∧ a * (32 / t.k.toNat) + b / t.k.toNat < n) &&
          (inputValue s (a * (32 / t.k.toNat) + b / t.k.toNat)).testBit (b % t.k.toNat))

/-- R136, R139: COMPRESS in mode 1: the least width, the word count, and every live word in the closed form. -/
def Obligations.CompressSpanPacks : Prop :=
  ∀ (s : State) (n : Nat), s.mode = .span → 1 ≤ n → n ≤ s.nmax.toNat → InputSupported s n →
    ∃ t, exec (.compress n) s = .next t ∧ Completed t ∧ t.n.toNat = n ∧ t.oc = 0 ∧
      LeastWidth (inputValue s) n t.k.toNat ∧ t.wc.toNat = ceilDiv (n * t.k.toNat) 32 ∧
      ∀ a < t.wc.toNat,
        (readWbuf t.wbuf a).toNat = digitSum (inputValue s) t.k.toNat n / 2 ^ (32 * a) % 2 ^ 32

/-- R167 to R172: COMPRESS in mode 2: the width is MAIN_BITS, n + 1 fields are packed (the last is SENTINEL - 1), OC
counts the values at or above the sentinel, and each of them stands in OVF at its rank. -/
def Obligations.CompressOverflowPacks : Prop :=
  ∀ (s : State) (n : Nat), s.mode = .overflow → OverflowLegal s → 1 ≤ n → n ≤ s.nmax.toNat → InputSupported s n →
    ∃ t, exec (.compress n) s = .next t ∧ Completed t ∧ t.n.toNat = n ∧ t.k = s.mainBits ∧
      t.wc.toNat = ceilDiv ((n + 1) * s.mainBits.toNat) 32 ∧
      t.oc.toNat = countBelow (fun j => decide (s.sentinel.toNat ≤ inputValue s j)) n ∧
      (∀ j < n, s.sentinel.toNat ≤ inputValue s j →
        (readOvf t.ovf (countBelow (fun i => decide (s.sentinel.toNat ≤ inputValue s i)) j)).toNat =
          inputValue s j) ∧
      ∀ a < t.wc.toNat,
        (readWbuf t.wbuf a).toNat =
          digitSum (fun j => if j < n then mainStream (inputValue s j) s.sentinel.toNat else s.sentinel.toNat - 1)
            s.mainBits.toNat (n + 1) / 2 ^ (32 * a) % 2 ^ 32

/-- R84, R18, D18: what COMPRESS leaves unchanged, in every state and mode, succeeding or failing: the configuration,
the result holders, IBUF, and every WBUF and OVF entry outside the live ranges it leaves. -/
def Obligations.CompressFrame : Prop :=
  ∀ (s t : State) (n : Nat), exec (.compress n) s = .next t →
    t.mode = s.mode ∧ t.mainBits = s.mainBits ∧ t.sentinel = s.sentinel ∧ SameResults s t ∧ SameOutside s t ∧
    (∀ a, t.wc.toNat ≤ a → Memory.lookup t.wbuf a = Memory.lookup s.wbuf a) ∧
    (∀ p, t.oc.toNat ≤ p → Memory.lookup t.ovf p = Memory.lookup s.ovf p)

/-- R32, R46, R84: "the earlier state is not an input": two states with the same input, layout and NMAX give the same
outcome of COMPRESS, as far as the host can read the codec state. -/
def Obligations.CompressIgnoresEarlierState : Prop :=
  ∀ (s s' : State) (n : Nat), s'.mode = s.mode → s'.mainBits = s.mainBits → s'.sentinel = s.sentinel →
    s'.nmax = s.nmax → (∀ j < n, readIbuf s' j = readIbuf s j) →
    ∃ t t', exec (.compress n) s = .next t ∧ exec (.compress n) s' = .next t' ∧
      t'.errcode = t.errcode ∧ t'.errinfo = t.errinfo ∧
      (t.errcode = 0 → t'.n = t.n ∧ t'.k = t.k ∧ t'.wc = t.wc ∧ t'.oc = t.oc ∧
        ∀ a, entryData .wbuf a t' = entryData .wbuf a t ∧ entryData .ovf a t' = entryData .ovf a t)

/-- R136, corner case: where the width divides 32 no element crosses, and the spanning buffer is bit for bit the
non-spanning buffer of the same input. -/
def Obligations.SpanEqualsNonspanWhenWidthDivides : Prop :=
  ∀ (s : State) (n : Nat), 1 ≤ n → n ≤ s.nmax.toNat → InputSupported s n →
    ∃ t u, exec (.compress n) { s with mode := .nonspan } = .next t ∧
      exec (.compress n) { s with mode := .span } = .next u ∧ u.k = t.k ∧
      (t.k.toNat ∣ 32 → u.wc = t.wc ∧ ∀ a < t.wc.toNat, readWbuf u.wbuf a = readWbuf t.wbuf a)

/-! ### GET (R85, R123, R151, R175) -/

/-- R123, R85: GET in mode 0 returns the K-bit lane of element i and changes no other register but the flags. -/
def Obligations.GetNonspanLane : Prop :=
  ∀ (s : State) (i : Nat), s.mode = .nonspan → i < s.n.toNat →
    ∃ t, exec (.get i) s = .next t ∧ Completed t ∧
      t.res.toNat = (readWbuf s.wbuf (i / (32 / s.k.toNat))).toNat / 2 ^ (i % (32 / s.k.toNat) * s.k.toNat) %
        2 ^ s.k.toNat

/-- R151, R85: GET in mode 1 returns the K bits of the bitstream from bit i*K on. -/
def Obligations.GetSpanField : Prop :=
  ∀ (s : State) (i : Nat), s.mode = .span → s.k.toNat ≤ 32 → i < s.n.toNat →
    ∃ t, exec (.get i) s = .next t ∧ Completed t ∧ t.res.toNat = streamField s.wbuf i s.k.toNat

/-- R175, R176: GET in mode 2 returns the field, or where the field is the sentinel the side-array entry at its rank. -/
def Obligations.GetOverflowField : Prop :=
  ∀ (s : State) (i : Nat), s.mode = .overflow → s.k.toNat ≤ 32 → i < s.n.toNat →
    ∃ t, exec (.get i) s = .next t ∧ Completed t ∧
      t.res.toNat =
        if streamField s.wbuf i s.k.toNat = s.sentinel.toNat then
          (readOvf s.ovf (countBelow (fun j => decide (streamField s.wbuf j s.k.toNat = s.sentinel.toNat)) i)).toNat
        else streamField s.wbuf i s.k.toNat

/-- R177: in a state that meets R30, a field that holds the sentinel has its rank inside the side array. -/
def Obligations.OverflowRankInRange : Prop :=
  ∀ (s : State) (i : Nat), Inv s → s.mode = .overflow → i < s.n.toNat → getSpan s.wbuf i s.k.toNat = s.sentinel →
    rank s.wbuf s.k.toNat s.sentinel i < s.oc.toNat

/-! ### DECOMPRESS and SIZE (R86, R87) -/

/-- R86, R179: DECOMPRESS always succeeds, sets OLEN to N, writes OBUF[j] for each j < N with what GET j returns, and
writes nothing else. -/
def Obligations.DecompressWritesEveryGet : Prop :=
  ∀ s : State, ∃ t, exec .decompress s = .next t ∧ Completed t ∧ t.olen = s.n ∧
    (∀ j < s.n.toNat, ∃ u, exec (.get j) s = .next u ∧ Memory.lookup t.obuf j = some u.res) ∧
    (∀ j, s.n.toNat ≤ j → Memory.lookup t.obuf j = Memory.lookup s.obuf j) ∧
    t.res = s.res ∧ SameCodec s t ∧ SameOutside s t

/-- R87, R180: SIZE gives 4*WC + 4*OC in RES, 0 for the empty state, and writes nothing else; in a state that meets
the register invariant the value is below 2^27. -/
def Obligations.SizeCountsBytes : Prop :=
  ∀ s : State, ∃ t, exec .size s = .next t ∧ Completed t ∧ t.res.toNat = 4 * s.wc.toNat + 4 * s.oc.toNat ∧
    t.olen = s.olen ∧ SameEntries s.obuf t.obuf ∧ SameCodec s t ∧ SameOutside s t ∧
    (RegInv s → s.n = 0 → t.res = 0) ∧ (RegInv s → t.res.toNat < 2 ^ 27)

/-- R88: GET, DECOMPRESS and SIZE, successful or failing, write none of the codec state and not IBUF, only the flags,
their result holders and the sequencer registers, and repeating one gives identical results. -/
def Obligations.ReadersArePure : Prop :=
  ∀ (i : Instr) (s : State), ((∃ j, i = .get j) ∨ i = .decompress ∨ i = .size) →
    ∃ t u, exec i s = .next t ∧ exec i t = .next u ∧
      SameCodec s t ∧ SameOutside s t ∧
      (i ≠ .decompress → t.olen = s.olen ∧ SameEntries s.obuf t.obuf) ∧ (i = .decompress → t.res = s.res) ∧
      SameResults t u ∧ u.errcode = t.errcode ∧ u.errinfo = t.errinfo

/-! ### The codec contract (R31, R89) -/

/-- R31, R89 "Point access", R52: after COMPRESS n, and whatever the host then writes to IBUF, GET i returns the
original value of element i, in every mode. -/
def Obligations.PointAccessRoundTrip : Prop :=
  ∀ (s : State) (n : Nat), OverflowLegal s → n ≤ s.nmax.toNat → InputSupported s n →
    ∃ t, exec (.compress n) s = .next t ∧ Completed t ∧
      ∀ (later : List (Nat × Element)) (i : Nat), i < n →
        ∃ u, exec (.get i) (later.foldl (fun r w => hostWriteIbuf w.1 w.2 r) t) = .next u ∧ Completed u ∧
          u.res.toNat = inputValue s i

/-- R31, R89 "Round-trip": after COMPRESS n, DECOMPRESS gives OLEN = n and OBUF the original sequence, in every mode,
as the host reads it. -/
def Obligations.DecompressRoundTrip : Prop :=
  ∀ (s : State) (n : Nat), OverflowLegal s → n ≤ s.nmax.toNat → InputSupported s n →
    ∃ t u, exec (.compress n) s = .next t ∧ exec .decompress t = .next u ∧ Completed t ∧ Completed u ∧
      u.olen.toNat = n ∧
      ∀ j < n, entryData .obuf j u = .word (BitVec.ofNat 32 (inputValue s j)) ∧ inputValue s j < 2 ^ 32

/-! ### Invariants (R30) -/

/-- R30, R215: the reset state meets R30. R24: its memories are within their depths. The clause on the canonical form
of the memories is no rule of the spec but the model's choice (log entry 10). -/
def Obligations.ResetMeetsInvariant : Prop :=
  Inv State.reset ∧ MemoriesWf State.reset ∧ MemoriesWithin State.reset

/-- R30, the register clauses: every step keeps them. -/
def Obligations.StepKeepsRegisterClauses : Prop :=
  ∀ s t : State, RegInv s → step s = .next t → RegInv t

/-- R30, whole: every step keeps it, the zero spare bits and the count of sentinel fields among it. -/
def Obligations.StepKeepsBlockInvariant : Prop :=
  ∀ s t : State, Inv s → step s = .next t → Inv t

/-- Every step keeps the canonical form of the four memories; the form is the model's choice (log entry 10). -/
def Obligations.StepKeepsCanonicalMemories : Prop :=
  ∀ s t : State, MemoriesWf s → step s = .next t → MemoriesWf t

/-- R24, R109: every step writes inside the depths of the memories. -/
def Obligations.StepStaysInsideMemories : Prop :=
  ∀ s t : State, RegInv s → MemoriesWithin s → step s = .next t → MemoriesWithin t

/-- R26: NMAX is constant: no step changes it, whatever the host does. -/
def Obligations.NmaxIsConstant : Prop :=
  ∀ s t : State, step s = .next t → t.nmax = s.nmax

/-- R29: the sequencer registers are no input of any command: two states that differ in them only give outcomes that
differ in them only; and after a success they hold the idle value (the latter is log entry 6). -/
def Obligations.SequencerIsNoInput : Prop :=
  ∀ (i : Instr) (s : State) (q : Sequencer), ∃ t u, exec i s = .next t ∧ exec i { s with seq := q } = .next u ∧
    u = { t with seq := u.seq } ∧ (t.errcode = 0 → t.seq = .idle)

/-! ### The host port (R12, R27, R28, R230) -/

/-- R12, R13, R27, R46: what a host read of each register returns while idle, with no effect but the answer; CMD and
the reserved indices read 0. -/
def Obligations.HostRegisterReads : Prop :=
  ∀ (s : State) (r : PortIndex) (rest : List HostMove), s.busy = false → s.moves = .readReg r :: rest →
    ∃ w : Word, step s = .next { s with moves := rest, answer := some (.word w) } ∧
      w.toNat = match r.toNat with
        | 1 => s.errcode.toNat * 256
        | 2 => s.res.toNat
        | 3 => s.errinfo.toNat
        | 4 => (modeCode s.mode).toNat
        | 5 => s.mainBits.toNat
        | 6 => s.sentinel.toNat
        | 7 => s.n.toNat
        | 8 => s.k.toNat
        | 9 => s.wc.toNat
        | 10 => s.oc.toNat
        | 11 => s.olen.toNat
        | 12 => s.nmax.toNat
        | _ => 0

/-- R28, R230: a host read of a memory entry while idle: the entry inside the live range (for IBUF below NMAX), else 0,
with no effect but the answer. -/
def Obligations.HostMemoryReads : Prop :=
  ∀ (s : State) (space : Space) (a : PortIndex) (rest : List HostMove), s.busy = false →
    s.moves = .readEntry space a :: rest →
    ∃ d, step s = .next { s with moves := rest, answer := some d } ∧
      d = match space with
        | .ibuf => .element (if a.toNat < s.nmax.toNat then readIbuf s a.toNat else 0)
        | .wbuf => .word (if a.toNat < s.wc.toNat then readWbuf s.wbuf a.toNat else 0)
        | .ovf => .word (if a.toNat < s.oc.toNat then readOvf s.ovf a.toNat else 0)
        | .obuf => .word (if a.toNat < s.olen.toNat then readObuf s.obuf a.toNat else 0)

/-- R12, R27, R48: a host write of any register but CMD is ignored. -/
def Obligations.ReadOnlyRegisterWriteIgnored : Prop :=
  ∀ (s : State) (r : PortIndex) (w : Word) (rest : List HostMove), s.busy = false → r ≠ 0 →
    s.moves = .writeReg r w :: rest → step s = .next { s with moves := rest }

/-- R24, R28, R230: a host write of IBUF[j]: below NMAX the entry takes the value and every other entry reads as
before; at or beyond NMAX it is ignored; no register and no other memory changes. -/
def Obligations.IbufWriteThenRead : Prop :=
  ∀ (s : State) (j : PortIndex) (v : Element) (rest : List HostMove), s.busy = false →
    s.moves = .writeIbuf j v :: rest →
    ∃ t, step s = .next t ∧ t = { s with moves := rest, ibuf := t.ibuf } ∧
      ∀ i, readIbuf t i = if i = j.toNat ∧ j.toNat < s.nmax.toNat then v else readIbuf s i

/-! ### The bit-address calculator (41_bit_address.md) and the dispatcher (R167) -/

/-- R101: bit_length x is the least b with x < 2^b, and the width of a maximum below 2^32 is between 1 and 32. -/
def Obligations.BitLengthIsLeast : Prop :=
  (∀ x b : Nat, x < 2 ^ b ↔ bitLength x ≤ b) ∧
  ∀ mx : Nat, widthOf mx = (if mx = 0 then 1 else bitLength mx) ∧
    (mx < 2 ^ 32 → 1 ≤ widthOf mx ∧ widthOf mx ≤ 32 ∧ mx < 2 ^ widthOf mx)

/-- R104: 1 <= wc_span(n, k) <= n, with equality at k = 32, and never more than wc_nonspan(n, k). -/
def Obligations.SpanningNeedsNoMoreWords : Prop :=
  ∀ n k : Nat, 1 ≤ n → 1 ≤ k → k ≤ 32 →
    wcSpan n k = (n * k + 31) / 32 ∧ 1 ≤ wcSpan n k ∧ wcSpan n k ≤ n ∧ (k = 32 → wcSpan n k = n) ∧
      wcSpan n k ≤ wcNonspan n k

/-- R109: every word index is inside the buffer, that of a crossing field's second word too. -/
def Obligations.WordIndexInsideBuffer : Prop :=
  ∀ c k i : Nat, 1 ≤ k → k ≤ 32 → i < c →
    arrayIndex (spanCursor i k) < wcSpan c k ∧
    (crosses (bitOffset (spanCursor i k)) k = true → arrayIndex (spanCursor i k) + 1 < wcSpan c k) ∧
    nonspanIndex i k < wcNonspan c k

/-- R167: a value below the sentinel is kept, any other is replaced by the sentinel and diverted; so a field equals the
sentinel if and only if its element was diverted, and a kept value is at most S - 1. -/
def Obligations.DispatchIsStrict : Prop :=
  ∀ v sentinel : Word,
    (v.toNat < sentinel.toNat → dispatchField v sentinel = v ∧ diverts v sentinel = false) ∧
    (sentinel.toNat ≤ v.toNat → dispatchField v sentinel = sentinel ∧ diverts v sentinel = true) ∧
    (dispatchField v sentinel = sentinel ↔ diverts v sentinel = true) ∧
    (diverts v sentinel = false → (dispatchField v sentinel).toNat ≤ sentinel.toNat - 1)
end

