-- ==== Sys2Proof/Laws/Memory.lean ====
section
/-! SUPPORT. The laws of a memory: a read after a write to the same index gives the value, every other index reads as
before, and a write keeps the canonical form and the depth. -/

namespace Sys2Proof.Machine

variable {width : Nat}

@[simp] theorem Memory.lookup_store_same (m : Memory width) (i : Nat) (x : BitVec width) :
    Memory.lookup (Memory.store m i x) i = some x := by
  induction m with
  | nil => simp [Memory.store, Memory.lookup]
  | cons e m ih =>
    obtain ⟨a, v⟩ := e
    simp only [Memory.store]
    split
    · simp [Memory.lookup]
    · split
      · simp [Memory.lookup]
      · have : a ≠ i := by omega
        simp [Memory.lookup, this, ih]

theorem Memory.lookup_store_other (m : Memory width) {i j : Nat} (x : BitVec width) (h : j ≠ i) :
    Memory.lookup (Memory.store m i x) j = Memory.lookup m j := by
  have h' : i ≠ j := fun e => h e.symm
  induction m with
  | nil => simp [Memory.store, Memory.lookup, h']
  | cons e m ih =>
    obtain ⟨a, v⟩ := e
    simp only [Memory.store]
    split
    · simp [Memory.lookup, h']
    · split
      · next e => subst e; simp [Memory.lookup, h']
      · simp only [Memory.lookup, ih]

/-- The two laws together. -/
theorem Memory.lookup_store (m : Memory width) (i j : Nat) (x : BitVec width) :
    Memory.lookup (Memory.store m i x) j = if j = i then some x else Memory.lookup m j := by
  split
  · next h => subst h; simp
  · next h => exact Memory.lookup_store_other m x h

theorem readWbuf_store (m : Memory 32) (i j : Nat) (x : Word) :
    readWbuf (Memory.store m i x) j = if j = i then x else readWbuf m j := by
  unfold readWbuf; rw [Memory.lookup_store]; split <;> rfl

theorem readOvf_store (m : Memory 32) (i j : Nat) (x : Word) :
    readOvf (Memory.store m i x) j = if j = i then x else readOvf m j := by
  unfold readOvf; rw [Memory.lookup_store]; split <;> rfl

theorem readObuf_store (m : Memory 32) (i j : Nat) (x : Word) :
    readObuf (Memory.store m i x) j = if j = i then x else readObuf m j := by
  unfold readObuf; rw [Memory.lookup_store]; split <;> rfl

/-- The canonical form of a nonempty memory: its head is below every later index. -/
theorem Memory.wf_cons_iff (a : Nat) (v : BitVec width) (m : Memory width) :
    Memory.wf ((a, v) :: m) = true ↔ (∀ e ∈ m, a < e.1) ∧ Memory.wf m = true := by
  induction m generalizing a v with
  | nil => simp [Memory.wf]
  | cons e m ih =>
    obtain ⟨b, y⟩ := e
    simp only [Memory.wf, Bool.and_eq_true, decide_eq_true_eq]
    constructor
    · rintro ⟨hab, hw⟩
      refine ⟨fun e he => ?_, hw⟩
      rcases List.mem_cons.1 he with rfl | he
      · exact hab
      · exact lt_trans hab (((ih b y).1 hw).1 e he)
    · rintro ⟨h, hw⟩
      exact ⟨h (b, y) (by simp), hw⟩

/-- The indices of a memory after a write are the old ones and the written one. -/
theorem Memory.mem_store {m : Memory width} {i : Nat} {x : BitVec width} {e : Nat × BitVec width}
    (h : e ∈ Memory.store m i x) : e.1 = i ∨ e ∈ m := by
  induction m with
  | nil => simp [Memory.store] at h; simp [h]
  | cons c m ih =>
    obtain ⟨a, v⟩ := c
    simp only [Memory.store] at h
    split at h
    · rcases List.mem_cons.1 h with rfl | h
      · exact .inl rfl
      · exact .inr h
    · split at h
      · rcases List.mem_cons.1 h with rfl | h
        · exact .inl rfl
        · exact .inr (List.mem_cons_of_mem _ h)
      · rcases List.mem_cons.1 h with rfl | h
        · exact .inr (by simp)
        · exact (ih h).imp id (List.mem_cons_of_mem _)

/-- A write keeps the canonical form. -/
theorem Memory.wf_store (m : Memory width) (i : Nat) (x : BitVec width) (h : Memory.wf m = true) :
    Memory.wf (Memory.store m i x) = true := by
  induction m with
  | nil => rfl
  | cons c m ih =>
    obtain ⟨a, v⟩ := c
    have hc := (Memory.wf_cons_iff a v m).1 h
    simp only [Memory.store]
    split
    · next hia =>
      rw [Memory.wf_cons_iff]
      refine ⟨fun e he => ?_, h⟩
      rcases List.mem_cons.1 he with rfl | he
      · exact hia
      · exact lt_trans hia (hc.1 e he)
    · split
      · next e => subst e; exact (Memory.wf_cons_iff i x m).2 hc
      · next h1 h2 =>
        rw [Memory.wf_cons_iff]
        refine ⟨fun e he => ?_, ih hc.2⟩
        rcases Memory.mem_store he with rfl | he
        · omega
        · exact hc.1 e he

/-- A write below the depth keeps the memory within the depth. -/
theorem Memory.within_store (m : Memory width) (i : Nat) (x : BitVec width) (d : Nat)
    (h : Memory.within m d = true) (hi : i < d) : Memory.within (Memory.store m i x) d = true := by
  unfold Memory.within at *
  rw [List.all_eq_true] at *
  intro e he
  rcases Memory.mem_store he with rfl | he
  · simpa using hi
  · exact h e he

/-! ### Every memory operation keeps the canonical form -/

theorem writeWbuf_wf (a : Nat) (x : Word) (s : State) (h : MemoriesWf s) : MemoriesWf (writeWbuf a x s) :=
  ⟨h.1, Memory.wf_store _ _ _ h.2.1, h.2.2⟩

theorem orWbuf_wf (a : Nat) (x : Word) (s : State) (h : MemoriesWf s) : MemoriesWf (orWbuf a x s) :=
  writeWbuf_wf _ _ s h

theorem writeOvf_wf (p : Nat) (x : Word) (s : State) (h : MemoriesWf s) : MemoriesWf (writeOvf p x s) :=
  ⟨h.1, h.2.1, Memory.wf_store _ _ _ h.2.2.1, h.2.2.2⟩

theorem writeObuf_wf (j : Nat) (x : Word) (s : State) (h : MemoriesWf s) : MemoriesWf (writeObuf j x s) :=
  ⟨h.1, h.2.1, h.2.2.1, Memory.wf_store _ _ _ h.2.2.2⟩

theorem hostWriteIbuf_wf (j : Nat) (v : Element) (s : State) (h : MemoriesWf s) :
    MemoriesWf (hostWriteIbuf j v s) := by
  unfold hostWriteIbuf
  split
  · exact ⟨Memory.wf_store _ _ _ h.1, h.2⟩
  · exact h

/-- The memories of the reset state are in canonical form: nothing is listed. -/
theorem resetAt_memories_wf (nmax : BitVec 24) : MemoriesWf (State.resetAt nmax) := ⟨rfl, rfl, rfl, rfl⟩

end Sys2Proof.Machine
end

