-- ==== Sys2Proof/Laws/State.lean ====
section
/-! SUPPORT. One lemma per field per update of State, true by rfl, so that no later proof unfolds a record update. -/

namespace Sys2Proof.Machine

/-! ### writeWbuf -/

@[simp] theorem writeWbuf_busy (a : Nat) (x : Word) (s : State) : (writeWbuf a x s).busy = s.busy := rfl
@[simp] theorem writeWbuf_errcode (a : Nat) (x : Word) (s : State) : (writeWbuf a x s).errcode = s.errcode := rfl
@[simp] theorem writeWbuf_errinfo (a : Nat) (x : Word) (s : State) : (writeWbuf a x s).errinfo = s.errinfo := rfl
@[simp] theorem writeWbuf_res (a : Nat) (x : Word) (s : State) : (writeWbuf a x s).res = s.res := rfl
@[simp] theorem writeWbuf_mode (a : Nat) (x : Word) (s : State) : (writeWbuf a x s).mode = s.mode := rfl
@[simp] theorem writeWbuf_mainBits (a : Nat) (x : Word) (s : State) : (writeWbuf a x s).mainBits = s.mainBits := rfl
@[simp] theorem writeWbuf_sentinel (a : Nat) (x : Word) (s : State) : (writeWbuf a x s).sentinel = s.sentinel := rfl
@[simp] theorem writeWbuf_n (a : Nat) (x : Word) (s : State) : (writeWbuf a x s).n = s.n := rfl
@[simp] theorem writeWbuf_k (a : Nat) (x : Word) (s : State) : (writeWbuf a x s).k = s.k := rfl
@[simp] theorem writeWbuf_wc (a : Nat) (x : Word) (s : State) : (writeWbuf a x s).wc = s.wc := rfl
@[simp] theorem writeWbuf_oc (a : Nat) (x : Word) (s : State) : (writeWbuf a x s).oc = s.oc := rfl
@[simp] theorem writeWbuf_olen (a : Nat) (x : Word) (s : State) : (writeWbuf a x s).olen = s.olen := rfl
@[simp] theorem writeWbuf_nmax (a : Nat) (x : Word) (s : State) : (writeWbuf a x s).nmax = s.nmax := rfl
@[simp] theorem writeWbuf_ibuf (a : Nat) (x : Word) (s : State) : (writeWbuf a x s).ibuf = s.ibuf := rfl
@[simp] theorem writeWbuf_wbuf (a : Nat) (x : Word) (s : State) : (writeWbuf a x s).wbuf = Memory.store s.wbuf a x := rfl
@[simp] theorem writeWbuf_ovf (a : Nat) (x : Word) (s : State) : (writeWbuf a x s).ovf = s.ovf := rfl
@[simp] theorem writeWbuf_obuf (a : Nat) (x : Word) (s : State) : (writeWbuf a x s).obuf = s.obuf := rfl
@[simp] theorem writeWbuf_seq (a : Nat) (x : Word) (s : State) : (writeWbuf a x s).seq = s.seq := rfl
@[simp] theorem writeWbuf_resets (a : Nat) (x : Word) (s : State) : (writeWbuf a x s).resets = s.resets := rfl
@[simp] theorem writeWbuf_moves (a : Nat) (x : Word) (s : State) : (writeWbuf a x s).moves = s.moves := rfl
@[simp] theorem writeWbuf_answer (a : Nat) (x : Word) (s : State) : (writeWbuf a x s).answer = s.answer := rfl

/-! ### orWbuf -/

@[simp] theorem orWbuf_busy (a : Nat) (x : Word) (s : State) : (orWbuf a x s).busy = s.busy := rfl
@[simp] theorem orWbuf_errcode (a : Nat) (x : Word) (s : State) : (orWbuf a x s).errcode = s.errcode := rfl
@[simp] theorem orWbuf_errinfo (a : Nat) (x : Word) (s : State) : (orWbuf a x s).errinfo = s.errinfo := rfl
@[simp] theorem orWbuf_res (a : Nat) (x : Word) (s : State) : (orWbuf a x s).res = s.res := rfl
@[simp] theorem orWbuf_mode (a : Nat) (x : Word) (s : State) : (orWbuf a x s).mode = s.mode := rfl
@[simp] theorem orWbuf_mainBits (a : Nat) (x : Word) (s : State) : (orWbuf a x s).mainBits = s.mainBits := rfl
@[simp] theorem orWbuf_sentinel (a : Nat) (x : Word) (s : State) : (orWbuf a x s).sentinel = s.sentinel := rfl
@[simp] theorem orWbuf_n (a : Nat) (x : Word) (s : State) : (orWbuf a x s).n = s.n := rfl
@[simp] theorem orWbuf_k (a : Nat) (x : Word) (s : State) : (orWbuf a x s).k = s.k := rfl
@[simp] theorem orWbuf_wc (a : Nat) (x : Word) (s : State) : (orWbuf a x s).wc = s.wc := rfl
@[simp] theorem orWbuf_oc (a : Nat) (x : Word) (s : State) : (orWbuf a x s).oc = s.oc := rfl
@[simp] theorem orWbuf_olen (a : Nat) (x : Word) (s : State) : (orWbuf a x s).olen = s.olen := rfl
@[simp] theorem orWbuf_nmax (a : Nat) (x : Word) (s : State) : (orWbuf a x s).nmax = s.nmax := rfl
@[simp] theorem orWbuf_ibuf (a : Nat) (x : Word) (s : State) : (orWbuf a x s).ibuf = s.ibuf := rfl
@[simp] theorem orWbuf_wbuf (a : Nat) (x : Word) (s : State) : (orWbuf a x s).wbuf = Memory.store s.wbuf a (readWbuf s.wbuf a ||| x) := rfl
@[simp] theorem orWbuf_ovf (a : Nat) (x : Word) (s : State) : (orWbuf a x s).ovf = s.ovf := rfl
@[simp] theorem orWbuf_obuf (a : Nat) (x : Word) (s : State) : (orWbuf a x s).obuf = s.obuf := rfl
@[simp] theorem orWbuf_seq (a : Nat) (x : Word) (s : State) : (orWbuf a x s).seq = s.seq := rfl
@[simp] theorem orWbuf_resets (a : Nat) (x : Word) (s : State) : (orWbuf a x s).resets = s.resets := rfl
@[simp] theorem orWbuf_moves (a : Nat) (x : Word) (s : State) : (orWbuf a x s).moves = s.moves := rfl
@[simp] theorem orWbuf_answer (a : Nat) (x : Word) (s : State) : (orWbuf a x s).answer = s.answer := rfl

/-! ### writeOvf -/

@[simp] theorem writeOvf_busy (p : Nat) (x : Word) (s : State) : (writeOvf p x s).busy = s.busy := rfl
@[simp] theorem writeOvf_errcode (p : Nat) (x : Word) (s : State) : (writeOvf p x s).errcode = s.errcode := rfl
@[simp] theorem writeOvf_errinfo (p : Nat) (x : Word) (s : State) : (writeOvf p x s).errinfo = s.errinfo := rfl
@[simp] theorem writeOvf_res (p : Nat) (x : Word) (s : State) : (writeOvf p x s).res = s.res := rfl
@[simp] theorem writeOvf_mode (p : Nat) (x : Word) (s : State) : (writeOvf p x s).mode = s.mode := rfl
@[simp] theorem writeOvf_mainBits (p : Nat) (x : Word) (s : State) : (writeOvf p x s).mainBits = s.mainBits := rfl
@[simp] theorem writeOvf_sentinel (p : Nat) (x : Word) (s : State) : (writeOvf p x s).sentinel = s.sentinel := rfl
@[simp] theorem writeOvf_n (p : Nat) (x : Word) (s : State) : (writeOvf p x s).n = s.n := rfl
@[simp] theorem writeOvf_k (p : Nat) (x : Word) (s : State) : (writeOvf p x s).k = s.k := rfl
@[simp] theorem writeOvf_wc (p : Nat) (x : Word) (s : State) : (writeOvf p x s).wc = s.wc := rfl
@[simp] theorem writeOvf_oc (p : Nat) (x : Word) (s : State) : (writeOvf p x s).oc = s.oc := rfl
@[simp] theorem writeOvf_olen (p : Nat) (x : Word) (s : State) : (writeOvf p x s).olen = s.olen := rfl
@[simp] theorem writeOvf_nmax (p : Nat) (x : Word) (s : State) : (writeOvf p x s).nmax = s.nmax := rfl
@[simp] theorem writeOvf_ibuf (p : Nat) (x : Word) (s : State) : (writeOvf p x s).ibuf = s.ibuf := rfl
@[simp] theorem writeOvf_wbuf (p : Nat) (x : Word) (s : State) : (writeOvf p x s).wbuf = s.wbuf := rfl
@[simp] theorem writeOvf_ovf (p : Nat) (x : Word) (s : State) : (writeOvf p x s).ovf = Memory.store s.ovf p x := rfl
@[simp] theorem writeOvf_obuf (p : Nat) (x : Word) (s : State) : (writeOvf p x s).obuf = s.obuf := rfl
@[simp] theorem writeOvf_seq (p : Nat) (x : Word) (s : State) : (writeOvf p x s).seq = s.seq := rfl
@[simp] theorem writeOvf_resets (p : Nat) (x : Word) (s : State) : (writeOvf p x s).resets = s.resets := rfl
@[simp] theorem writeOvf_moves (p : Nat) (x : Word) (s : State) : (writeOvf p x s).moves = s.moves := rfl
@[simp] theorem writeOvf_answer (p : Nat) (x : Word) (s : State) : (writeOvf p x s).answer = s.answer := rfl

/-! ### writeObuf -/

@[simp] theorem writeObuf_busy (j : Nat) (x : Word) (s : State) : (writeObuf j x s).busy = s.busy := rfl
@[simp] theorem writeObuf_errcode (j : Nat) (x : Word) (s : State) : (writeObuf j x s).errcode = s.errcode := rfl
@[simp] theorem writeObuf_errinfo (j : Nat) (x : Word) (s : State) : (writeObuf j x s).errinfo = s.errinfo := rfl
@[simp] theorem writeObuf_res (j : Nat) (x : Word) (s : State) : (writeObuf j x s).res = s.res := rfl
@[simp] theorem writeObuf_mode (j : Nat) (x : Word) (s : State) : (writeObuf j x s).mode = s.mode := rfl
@[simp] theorem writeObuf_mainBits (j : Nat) (x : Word) (s : State) : (writeObuf j x s).mainBits = s.mainBits := rfl
@[simp] theorem writeObuf_sentinel (j : Nat) (x : Word) (s : State) : (writeObuf j x s).sentinel = s.sentinel := rfl
@[simp] theorem writeObuf_n (j : Nat) (x : Word) (s : State) : (writeObuf j x s).n = s.n := rfl
@[simp] theorem writeObuf_k (j : Nat) (x : Word) (s : State) : (writeObuf j x s).k = s.k := rfl
@[simp] theorem writeObuf_wc (j : Nat) (x : Word) (s : State) : (writeObuf j x s).wc = s.wc := rfl
@[simp] theorem writeObuf_oc (j : Nat) (x : Word) (s : State) : (writeObuf j x s).oc = s.oc := rfl
@[simp] theorem writeObuf_olen (j : Nat) (x : Word) (s : State) : (writeObuf j x s).olen = s.olen := rfl
@[simp] theorem writeObuf_nmax (j : Nat) (x : Word) (s : State) : (writeObuf j x s).nmax = s.nmax := rfl
@[simp] theorem writeObuf_ibuf (j : Nat) (x : Word) (s : State) : (writeObuf j x s).ibuf = s.ibuf := rfl
@[simp] theorem writeObuf_wbuf (j : Nat) (x : Word) (s : State) : (writeObuf j x s).wbuf = s.wbuf := rfl
@[simp] theorem writeObuf_ovf (j : Nat) (x : Word) (s : State) : (writeObuf j x s).ovf = s.ovf := rfl
@[simp] theorem writeObuf_obuf (j : Nat) (x : Word) (s : State) : (writeObuf j x s).obuf = Memory.store s.obuf j x := rfl
@[simp] theorem writeObuf_seq (j : Nat) (x : Word) (s : State) : (writeObuf j x s).seq = s.seq := rfl
@[simp] theorem writeObuf_resets (j : Nat) (x : Word) (s : State) : (writeObuf j x s).resets = s.resets := rfl
@[simp] theorem writeObuf_moves (j : Nat) (x : Word) (s : State) : (writeObuf j x s).moves = s.moves := rfl
@[simp] theorem writeObuf_answer (j : Nat) (x : Word) (s : State) : (writeObuf j x s).answer = s.answer := rfl

/-! ### setJ -/

@[simp] theorem setJ_busy (j : Nat) (s : State) : (setJ j s).busy = s.busy := rfl
@[simp] theorem setJ_errcode (j : Nat) (s : State) : (setJ j s).errcode = s.errcode := rfl
@[simp] theorem setJ_errinfo (j : Nat) (s : State) : (setJ j s).errinfo = s.errinfo := rfl
@[simp] theorem setJ_res (j : Nat) (s : State) : (setJ j s).res = s.res := rfl
@[simp] theorem setJ_mode (j : Nat) (s : State) : (setJ j s).mode = s.mode := rfl
@[simp] theorem setJ_mainBits (j : Nat) (s : State) : (setJ j s).mainBits = s.mainBits := rfl
@[simp] theorem setJ_sentinel (j : Nat) (s : State) : (setJ j s).sentinel = s.sentinel := rfl
@[simp] theorem setJ_n (j : Nat) (s : State) : (setJ j s).n = s.n := rfl
@[simp] theorem setJ_k (j : Nat) (s : State) : (setJ j s).k = s.k := rfl
@[simp] theorem setJ_wc (j : Nat) (s : State) : (setJ j s).wc = s.wc := rfl
@[simp] theorem setJ_oc (j : Nat) (s : State) : (setJ j s).oc = s.oc := rfl
@[simp] theorem setJ_olen (j : Nat) (s : State) : (setJ j s).olen = s.olen := rfl
@[simp] theorem setJ_nmax (j : Nat) (s : State) : (setJ j s).nmax = s.nmax := rfl
@[simp] theorem setJ_ibuf (j : Nat) (s : State) : (setJ j s).ibuf = s.ibuf := rfl
@[simp] theorem setJ_wbuf (j : Nat) (s : State) : (setJ j s).wbuf = s.wbuf := rfl
@[simp] theorem setJ_ovf (j : Nat) (s : State) : (setJ j s).ovf = s.ovf := rfl
@[simp] theorem setJ_obuf (j : Nat) (s : State) : (setJ j s).obuf = s.obuf := rfl
@[simp] theorem setJ_seq (j : Nat) (s : State) : (setJ j s).seq = { s.seq with j := BitVec.ofNat 25 j } := rfl
@[simp] theorem setJ_resets (j : Nat) (s : State) : (setJ j s).resets = s.resets := rfl
@[simp] theorem setJ_moves (j : Nat) (s : State) : (setJ j s).moves = s.moves := rfl
@[simp] theorem setJ_answer (j : Nat) (s : State) : (setJ j s).answer = s.answer := rfl

/-! ### setCur -/

@[simp] theorem setCur_busy (c : Nat) (s : State) : (setCur c s).busy = s.busy := rfl
@[simp] theorem setCur_errcode (c : Nat) (s : State) : (setCur c s).errcode = s.errcode := rfl
@[simp] theorem setCur_errinfo (c : Nat) (s : State) : (setCur c s).errinfo = s.errinfo := rfl
@[simp] theorem setCur_res (c : Nat) (s : State) : (setCur c s).res = s.res := rfl
@[simp] theorem setCur_mode (c : Nat) (s : State) : (setCur c s).mode = s.mode := rfl
@[simp] theorem setCur_mainBits (c : Nat) (s : State) : (setCur c s).mainBits = s.mainBits := rfl
@[simp] theorem setCur_sentinel (c : Nat) (s : State) : (setCur c s).sentinel = s.sentinel := rfl
@[simp] theorem setCur_n (c : Nat) (s : State) : (setCur c s).n = s.n := rfl
@[simp] theorem setCur_k (c : Nat) (s : State) : (setCur c s).k = s.k := rfl
@[simp] theorem setCur_wc (c : Nat) (s : State) : (setCur c s).wc = s.wc := rfl
@[simp] theorem setCur_oc (c : Nat) (s : State) : (setCur c s).oc = s.oc := rfl
@[simp] theorem setCur_olen (c : Nat) (s : State) : (setCur c s).olen = s.olen := rfl
@[simp] theorem setCur_nmax (c : Nat) (s : State) : (setCur c s).nmax = s.nmax := rfl
@[simp] theorem setCur_ibuf (c : Nat) (s : State) : (setCur c s).ibuf = s.ibuf := rfl
@[simp] theorem setCur_wbuf (c : Nat) (s : State) : (setCur c s).wbuf = s.wbuf := rfl
@[simp] theorem setCur_ovf (c : Nat) (s : State) : (setCur c s).ovf = s.ovf := rfl
@[simp] theorem setCur_obuf (c : Nat) (s : State) : (setCur c s).obuf = s.obuf := rfl
@[simp] theorem setCur_seq (c : Nat) (s : State) : (setCur c s).seq = { s.seq with cur := BitVec.ofNat 32 c } := rfl
@[simp] theorem setCur_resets (c : Nat) (s : State) : (setCur c s).resets = s.resets := rfl
@[simp] theorem setCur_moves (c : Nat) (s : State) : (setCur c s).moves = s.moves := rfl
@[simp] theorem setCur_answer (c : Nat) (s : State) : (setCur c s).answer = s.answer := rfl

/-! ### setAddr -/

@[simp] theorem setAddr_busy (c : Nat) (s : State) : (setAddr c s).busy = s.busy := rfl
@[simp] theorem setAddr_errcode (c : Nat) (s : State) : (setAddr c s).errcode = s.errcode := rfl
@[simp] theorem setAddr_errinfo (c : Nat) (s : State) : (setAddr c s).errinfo = s.errinfo := rfl
@[simp] theorem setAddr_res (c : Nat) (s : State) : (setAddr c s).res = s.res := rfl
@[simp] theorem setAddr_mode (c : Nat) (s : State) : (setAddr c s).mode = s.mode := rfl
@[simp] theorem setAddr_mainBits (c : Nat) (s : State) : (setAddr c s).mainBits = s.mainBits := rfl
@[simp] theorem setAddr_sentinel (c : Nat) (s : State) : (setAddr c s).sentinel = s.sentinel := rfl
@[simp] theorem setAddr_n (c : Nat) (s : State) : (setAddr c s).n = s.n := rfl
@[simp] theorem setAddr_k (c : Nat) (s : State) : (setAddr c s).k = s.k := rfl
@[simp] theorem setAddr_wc (c : Nat) (s : State) : (setAddr c s).wc = s.wc := rfl
@[simp] theorem setAddr_oc (c : Nat) (s : State) : (setAddr c s).oc = s.oc := rfl
@[simp] theorem setAddr_olen (c : Nat) (s : State) : (setAddr c s).olen = s.olen := rfl
@[simp] theorem setAddr_nmax (c : Nat) (s : State) : (setAddr c s).nmax = s.nmax := rfl
@[simp] theorem setAddr_ibuf (c : Nat) (s : State) : (setAddr c s).ibuf = s.ibuf := rfl
@[simp] theorem setAddr_wbuf (c : Nat) (s : State) : (setAddr c s).wbuf = s.wbuf := rfl
@[simp] theorem setAddr_ovf (c : Nat) (s : State) : (setAddr c s).ovf = s.ovf := rfl
@[simp] theorem setAddr_obuf (c : Nat) (s : State) : (setAddr c s).obuf = s.obuf := rfl
@[simp] theorem setAddr_seq (c : Nat) (s : State) : (setAddr c s).seq = { s.seq with aidx := BitVec.ofNat 27 (arrayIndex c), boff := BitVec.ofNat 5 (bitOffset c) } := rfl
@[simp] theorem setAddr_resets (c : Nat) (s : State) : (setAddr c s).resets = s.resets := rfl
@[simp] theorem setAddr_moves (c : Nat) (s : State) : (setAddr c s).moves = s.moves := rfl
@[simp] theorem setAddr_answer (c : Nat) (s : State) : (setAddr c s).answer = s.answer := rfl

/-! ### setMaxv -/

@[simp] theorem setMaxv_busy (v : Word) (s : State) : (setMaxv v s).busy = s.busy := rfl
@[simp] theorem setMaxv_errcode (v : Word) (s : State) : (setMaxv v s).errcode = s.errcode := rfl
@[simp] theorem setMaxv_errinfo (v : Word) (s : State) : (setMaxv v s).errinfo = s.errinfo := rfl
@[simp] theorem setMaxv_res (v : Word) (s : State) : (setMaxv v s).res = s.res := rfl
@[simp] theorem setMaxv_mode (v : Word) (s : State) : (setMaxv v s).mode = s.mode := rfl
@[simp] theorem setMaxv_mainBits (v : Word) (s : State) : (setMaxv v s).mainBits = s.mainBits := rfl
@[simp] theorem setMaxv_sentinel (v : Word) (s : State) : (setMaxv v s).sentinel = s.sentinel := rfl
@[simp] theorem setMaxv_n (v : Word) (s : State) : (setMaxv v s).n = s.n := rfl
@[simp] theorem setMaxv_k (v : Word) (s : State) : (setMaxv v s).k = s.k := rfl
@[simp] theorem setMaxv_wc (v : Word) (s : State) : (setMaxv v s).wc = s.wc := rfl
@[simp] theorem setMaxv_oc (v : Word) (s : State) : (setMaxv v s).oc = s.oc := rfl
@[simp] theorem setMaxv_olen (v : Word) (s : State) : (setMaxv v s).olen = s.olen := rfl
@[simp] theorem setMaxv_nmax (v : Word) (s : State) : (setMaxv v s).nmax = s.nmax := rfl
@[simp] theorem setMaxv_ibuf (v : Word) (s : State) : (setMaxv v s).ibuf = s.ibuf := rfl
@[simp] theorem setMaxv_wbuf (v : Word) (s : State) : (setMaxv v s).wbuf = s.wbuf := rfl
@[simp] theorem setMaxv_ovf (v : Word) (s : State) : (setMaxv v s).ovf = s.ovf := rfl
@[simp] theorem setMaxv_obuf (v : Word) (s : State) : (setMaxv v s).obuf = s.obuf := rfl
@[simp] theorem setMaxv_seq (v : Word) (s : State) : (setMaxv v s).seq = { s.seq with maxv := v } := rfl
@[simp] theorem setMaxv_resets (v : Word) (s : State) : (setMaxv v s).resets = s.resets := rfl
@[simp] theorem setMaxv_moves (v : Word) (s : State) : (setMaxv v s).moves = s.moves := rfl
@[simp] theorem setMaxv_answer (v : Word) (s : State) : (setMaxv v s).answer = s.answer := rfl

/-! ### setP -/

@[simp] theorem setP_busy (p : Nat) (s : State) : (setP p s).busy = s.busy := rfl
@[simp] theorem setP_errcode (p : Nat) (s : State) : (setP p s).errcode = s.errcode := rfl
@[simp] theorem setP_errinfo (p : Nat) (s : State) : (setP p s).errinfo = s.errinfo := rfl
@[simp] theorem setP_res (p : Nat) (s : State) : (setP p s).res = s.res := rfl
@[simp] theorem setP_mode (p : Nat) (s : State) : (setP p s).mode = s.mode := rfl
@[simp] theorem setP_mainBits (p : Nat) (s : State) : (setP p s).mainBits = s.mainBits := rfl
@[simp] theorem setP_sentinel (p : Nat) (s : State) : (setP p s).sentinel = s.sentinel := rfl
@[simp] theorem setP_n (p : Nat) (s : State) : (setP p s).n = s.n := rfl
@[simp] theorem setP_k (p : Nat) (s : State) : (setP p s).k = s.k := rfl
@[simp] theorem setP_wc (p : Nat) (s : State) : (setP p s).wc = s.wc := rfl
@[simp] theorem setP_oc (p : Nat) (s : State) : (setP p s).oc = s.oc := rfl
@[simp] theorem setP_olen (p : Nat) (s : State) : (setP p s).olen = s.olen := rfl
@[simp] theorem setP_nmax (p : Nat) (s : State) : (setP p s).nmax = s.nmax := rfl
@[simp] theorem setP_ibuf (p : Nat) (s : State) : (setP p s).ibuf = s.ibuf := rfl
@[simp] theorem setP_wbuf (p : Nat) (s : State) : (setP p s).wbuf = s.wbuf := rfl
@[simp] theorem setP_ovf (p : Nat) (s : State) : (setP p s).ovf = s.ovf := rfl
@[simp] theorem setP_obuf (p : Nat) (s : State) : (setP p s).obuf = s.obuf := rfl
@[simp] theorem setP_seq (p : Nat) (s : State) : (setP p s).seq = { s.seq with p := BitVec.ofNat 24 p } := rfl
@[simp] theorem setP_resets (p : Nat) (s : State) : (setP p s).resets = s.resets := rfl
@[simp] theorem setP_moves (p : Nat) (s : State) : (setP p s).moves = s.moves := rfl
@[simp] theorem setP_answer (p : Nat) (s : State) : (setP p s).answer = s.answer := rfl

/-! ### setCodec -/

@[simp] theorem setCodec_busy (n k wc oc : Nat) (s : State) : (setCodec n k wc oc s).busy = s.busy := rfl
@[simp] theorem setCodec_errcode (n k wc oc : Nat) (s : State) : (setCodec n k wc oc s).errcode = s.errcode := rfl
@[simp] theorem setCodec_errinfo (n k wc oc : Nat) (s : State) : (setCodec n k wc oc s).errinfo = s.errinfo := rfl
@[simp] theorem setCodec_res (n k wc oc : Nat) (s : State) : (setCodec n k wc oc s).res = s.res := rfl
@[simp] theorem setCodec_mode (n k wc oc : Nat) (s : State) : (setCodec n k wc oc s).mode = s.mode := rfl
@[simp] theorem setCodec_mainBits (n k wc oc : Nat) (s : State) : (setCodec n k wc oc s).mainBits = s.mainBits := rfl
@[simp] theorem setCodec_sentinel (n k wc oc : Nat) (s : State) : (setCodec n k wc oc s).sentinel = s.sentinel := rfl
@[simp] theorem setCodec_n (n k wc oc : Nat) (s : State) : (setCodec n k wc oc s).n = BitVec.ofNat 24 n := rfl
@[simp] theorem setCodec_k (n k wc oc : Nat) (s : State) : (setCodec n k wc oc s).k = BitVec.ofNat 6 k := rfl
@[simp] theorem setCodec_wc (n k wc oc : Nat) (s : State) : (setCodec n k wc oc s).wc = BitVec.ofNat 25 wc := rfl
@[simp] theorem setCodec_oc (n k wc oc : Nat) (s : State) : (setCodec n k wc oc s).oc = BitVec.ofNat 24 oc := rfl
@[simp] theorem setCodec_olen (n k wc oc : Nat) (s : State) : (setCodec n k wc oc s).olen = s.olen := rfl
@[simp] theorem setCodec_nmax (n k wc oc : Nat) (s : State) : (setCodec n k wc oc s).nmax = s.nmax := rfl
@[simp] theorem setCodec_ibuf (n k wc oc : Nat) (s : State) : (setCodec n k wc oc s).ibuf = s.ibuf := rfl
@[simp] theorem setCodec_wbuf (n k wc oc : Nat) (s : State) : (setCodec n k wc oc s).wbuf = s.wbuf := rfl
@[simp] theorem setCodec_ovf (n k wc oc : Nat) (s : State) : (setCodec n k wc oc s).ovf = s.ovf := rfl
@[simp] theorem setCodec_obuf (n k wc oc : Nat) (s : State) : (setCodec n k wc oc s).obuf = s.obuf := rfl
@[simp] theorem setCodec_seq (n k wc oc : Nat) (s : State) : (setCodec n k wc oc s).seq = s.seq := rfl
@[simp] theorem setCodec_resets (n k wc oc : Nat) (s : State) : (setCodec n k wc oc s).resets = s.resets := rfl
@[simp] theorem setCodec_moves (n k wc oc : Nat) (s : State) : (setCodec n k wc oc s).moves = s.moves := rfl
@[simp] theorem setCodec_answer (n k wc oc : Nat) (s : State) : (setCodec n k wc oc s).answer = s.answer := rfl

/-! ### complete -/

@[simp] theorem complete_busy (s : State) : (complete s).busy = false := rfl
@[simp] theorem complete_errcode (s : State) : (complete s).errcode = 0 := rfl
@[simp] theorem complete_errinfo (s : State) : (complete s).errinfo = 0 := rfl
@[simp] theorem complete_res (s : State) : (complete s).res = s.res := rfl
@[simp] theorem complete_mode (s : State) : (complete s).mode = s.mode := rfl
@[simp] theorem complete_mainBits (s : State) : (complete s).mainBits = s.mainBits := rfl
@[simp] theorem complete_sentinel (s : State) : (complete s).sentinel = s.sentinel := rfl
@[simp] theorem complete_n (s : State) : (complete s).n = s.n := rfl
@[simp] theorem complete_k (s : State) : (complete s).k = s.k := rfl
@[simp] theorem complete_wc (s : State) : (complete s).wc = s.wc := rfl
@[simp] theorem complete_oc (s : State) : (complete s).oc = s.oc := rfl
@[simp] theorem complete_olen (s : State) : (complete s).olen = s.olen := rfl
@[simp] theorem complete_nmax (s : State) : (complete s).nmax = s.nmax := rfl
@[simp] theorem complete_ibuf (s : State) : (complete s).ibuf = s.ibuf := rfl
@[simp] theorem complete_wbuf (s : State) : (complete s).wbuf = s.wbuf := rfl
@[simp] theorem complete_ovf (s : State) : (complete s).ovf = s.ovf := rfl
@[simp] theorem complete_obuf (s : State) : (complete s).obuf = s.obuf := rfl
@[simp] theorem complete_seq (s : State) : (complete s).seq = .idle := rfl
@[simp] theorem complete_resets (s : State) : (complete s).resets = s.resets := rfl
@[simp] theorem complete_moves (s : State) : (complete s).moves = s.moves := rfl
@[simp] theorem complete_answer (s : State) : (complete s).answer = s.answer := rfl

/-! ### raise -/

@[simp] theorem raise_busy (e : ErrorKind) (info : Word) (s : State) : (raise e info s).busy = false := rfl
@[simp] theorem raise_errcode (e : ErrorKind) (info : Word) (s : State) : (raise e info s).errcode = errorCode e := rfl
@[simp] theorem raise_errinfo (e : ErrorKind) (info : Word) (s : State) : (raise e info s).errinfo = info := rfl
@[simp] theorem raise_res (e : ErrorKind) (info : Word) (s : State) : (raise e info s).res = s.res := rfl
@[simp] theorem raise_mode (e : ErrorKind) (info : Word) (s : State) : (raise e info s).mode = s.mode := rfl
@[simp] theorem raise_mainBits (e : ErrorKind) (info : Word) (s : State) : (raise e info s).mainBits = s.mainBits := rfl
@[simp] theorem raise_sentinel (e : ErrorKind) (info : Word) (s : State) : (raise e info s).sentinel = s.sentinel := rfl
@[simp] theorem raise_n (e : ErrorKind) (info : Word) (s : State) : (raise e info s).n = s.n := rfl
@[simp] theorem raise_k (e : ErrorKind) (info : Word) (s : State) : (raise e info s).k = s.k := rfl
@[simp] theorem raise_wc (e : ErrorKind) (info : Word) (s : State) : (raise e info s).wc = s.wc := rfl
@[simp] theorem raise_oc (e : ErrorKind) (info : Word) (s : State) : (raise e info s).oc = s.oc := rfl
@[simp] theorem raise_olen (e : ErrorKind) (info : Word) (s : State) : (raise e info s).olen = s.olen := rfl
@[simp] theorem raise_nmax (e : ErrorKind) (info : Word) (s : State) : (raise e info s).nmax = s.nmax := rfl
@[simp] theorem raise_ibuf (e : ErrorKind) (info : Word) (s : State) : (raise e info s).ibuf = s.ibuf := rfl
@[simp] theorem raise_wbuf (e : ErrorKind) (info : Word) (s : State) : (raise e info s).wbuf = s.wbuf := rfl
@[simp] theorem raise_ovf (e : ErrorKind) (info : Word) (s : State) : (raise e info s).ovf = s.ovf := rfl
@[simp] theorem raise_obuf (e : ErrorKind) (info : Word) (s : State) : (raise e info s).obuf = s.obuf := rfl
@[simp] theorem raise_seq (e : ErrorKind) (info : Word) (s : State) : (raise e info s).seq = s.seq := rfl
@[simp] theorem raise_resets (e : ErrorKind) (info : Word) (s : State) : (raise e info s).resets = s.resets := rfl
@[simp] theorem raise_moves (e : ErrorKind) (info : Word) (s : State) : (raise e info s).moves = s.moves := rfl
@[simp] theorem raise_answer (e : ErrorKind) (info : Word) (s : State) : (raise e info s).answer = s.answer := rfl

/-! ### raiseMaxv: only MAXV can change, to the larger of the two -/

theorem raiseMaxv_eq (v : Word) (s : State) : raiseMaxv v s = setMaxv (wordMax s.seq.maxv v) s := rfl

/-- The larger of two words is one of them and not below either. -/
theorem wordMax_spec (a b : Word) :
    a.toNat ≤ (wordMax a b).toNat ∧ b.toNat ≤ (wordMax a b).toNat ∧ (wordMax a b = a ∨ wordMax a b = b) := by
  unfold wordMax
  by_cases h : a < b
  · have := BitVec.lt_def.1 h
    rw [if_pos h]; exact ⟨by omega, le_rfl, .inr rfl⟩
  · have := Nat.not_lt.1 fun g => h (BitVec.lt_def.2 g)
    rw [if_neg h]; exact ⟨le_rfl, this, .inl rfl⟩

/-! ### configure, seekElement -/

theorem seekSpan_eq (i k : Nat) (s : State) :
    seekSpan i k s = { s with seq := (seekSpan i k s).seq } := rfl

/-- The reader's seek touches sequencer registers only (R151). -/
theorem seekElement_eq (i : Nat) (s : State) : seekElement i s = { s with seq := (seekElement i s).seq } := by
  unfold seekElement; split <;> rfl

/-- R83: what a successful CONFIG writes, as one record update. -/
theorem configure_eq (mode : Mode) (mainBits : Nat) (sentinel : Word) (s : State) :
    configure mode mainBits sentinel s =
      { s with mode := mode, mainBits := BitVec.ofNat 6 mainBits, sentinel := sentinel, n := 0, k := 0, wc := 0,
               oc := 0, olen := 0, res := 0 } := rfl

end Sys2Proof.Machine
end

