-- ==== Sys2Proof/Laws/Ops.lean ====
section
/-! SUPPORT. What each shared operation can do, said once: the loops, the scan, the pack step's registers and frame,
the bodies' frames, and one inversion lemma per command, for the host's moves and for the step. -/

namespace Sys2Proof.Machine

/-! ### Loops -/

/-- A loop keeps what its body keeps, the index known. -/
theorem forEach_induct (P : Nat → State → Prop) (body : Nat → State → State) (count : Nat) (s : State)
    (h0 : P 0 s) (hs : ∀ j t, j < count → P j t → P (j + 1) (body j t)) : P count (forEach body count s) := by
  induction count with
  | zero => exact h0
  | succ c ih => exact hs c _ (Nat.lt_succ_self c) (ih fun j t hj => hs j t (Nat.lt_succ_of_lt hj))

@[simp] theorem forElements_zero (body : Nat → State → State) (s : State) : forElements body 0 s = s := rfl

@[simp] theorem forElements_succ (body : Nat → State → State) (c : Nat) (s : State) :
    forElements body (c + 1) s = body c (setJ c (forElements body c s)) := rfl

/-- The scan's answer is the least index, and no answer means that the test fails everywhere below the count. -/
theorem leastIndex_spec (test : Nat → Bool) (count : Nat) :
    match leastIndex test count with
    | some j => j < count ∧ test j = true ∧ ∀ i < j, test i = false
    | none => ∀ i < count, test i = false := by
  induction count with
  | zero => simp [leastIndex]
  | succ c ih =>
    simp only [leastIndex]
    cases h : leastIndex test c with
    | some j =>
      rw [h] at ih
      exact ⟨by omega, ih.2⟩
    | none =>
      rw [h] at ih
      by_cases hc : test c = true
      · rw [if_pos hc]
        exact ⟨Nat.lt_succ_self c, hc, ih⟩
      · rw [if_neg hc]
        intro i hi
        rcases Nat.lt_succ_iff_lt_or_eq.1 hi with h' | h'
        · exact ih i h'
        · subst h'; simpa using hc

/-! ### Frames: what only the datapath's working state can differ in -/

/-- `t` is `s` but for the block's own memories and the sequencer registers. -/
def OnlyWork (s t : State) : Prop := t = { s with wbuf := t.wbuf, ovf := t.ovf, obuf := t.obuf, seq := t.seq }

theorem OnlyWork.refl (s : State) : OnlyWork s s := rfl

theorem OnlyWork.trans {s t u : State} (h : OnlyWork s t) (g : OnlyWork t u) : OnlyWork s u := by
  unfold OnlyWork at *; rw [h] at g; exact g

/-- A loop whose body keeps a reflexive and transitive frame keeps it. -/
theorem forEach_frame {R : State → State → Prop} (refl : ∀ s, R s s) (trans : ∀ s t u, R s t → R t u → R s u)
    (body : Nat → State → State) (hb : ∀ j t, R t (body j t)) (count : Nat) (s : State) :
    R s (forEach body count s) :=
  forEach_induct (fun _ t => R s t) body count s (refl s) fun j t _ h => trans _ _ _ h (hb j t)

theorem forElements_onlyWork (body : Nat → State → State) (hb : ∀ j t, OnlyWork t (body j t)) (count : Nat)
    (s : State) : OnlyWork s (forElements body count s) :=
  forEach_frame OnlyWork.refl (fun _ _ _ => OnlyWork.trans) _
    (fun j t => OnlyWork.trans (t := setJ j t) rfl (hb j _)) count s

theorem orField_eq (v : Word) (k wc : Nat) (s : State) :
    orField v k wc s = { s with wbuf := (orField v k wc s).wbuf } := by
  unfold orField; dsimp only; split <;> rfl

/-- R138: the pack step touches WBUF, CUR, AIDX and BOFF only. -/
theorem packSpan_eq (v : Word) (k wc : Nat) (s : State) :
    packSpan v k wc s = { s with wbuf := (packSpan v k wc s).wbuf, seq := (packSpan v k wc s).seq } := by
  unfold packSpan; dsimp only; rw [orField_eq]; rfl

theorem packSpan_onlyWork (v : Word) (k wc : Nat) (s : State) : OnlyWork s (packSpan v k wc s) := by
  unfold OnlyWork; rw [packSpan_eq]

/-- R138: AIDX and BOFF hold the address exactly, whatever the cursor. -/
theorem setAddr_aidx (s : State) : (setAddr s.seq.cur.toNat s).seq.aidx.toNat = s.seq.cur.toNat / 32 := by
  simp only [setAddr_seq, arrayIndex, BitVec.toNat_ofNat]
  have := s.seq.cur.isLt
  omega

theorem setAddr_boff (s : State) : (setAddr s.seq.cur.toNat s).seq.boff.toNat = s.seq.cur.toNat % 32 := by
  simp only [setAddr_seq, bitOffset, BitVec.toNat_ofNat]
  omega

/-- R138, R139: the pack step advances CUR by k (R108: without a wrap, for every cursor a command reaches). -/
theorem packSpan_cur (v : Word) (k wc : Nat) (s : State) (h : s.seq.cur.toNat + k < 2 ^ 32) :
    (packSpan v k wc s).seq.cur.toNat = s.seq.cur.toNat + k := by
  simp only [packSpan, setCur_seq, BitVec.toNat_ofNat]
  exact Nat.mod_eq_of_lt h

/-- R138: the words after the pack step, as one write or two. -/
theorem packSpan_wbuf (v : Word) (k wc : Nat) (s : State) :
    (packSpan v k wc s).wbuf =
      let a := s.seq.cur.toNat / 32
      let b := s.seq.cur.toNat % 32
      let m := Memory.store s.wbuf a (readWbuf s.wbuf a ||| (v &&& mask k) <<< b)
      if 32 < b + k ∧ a + 1 < wc then
        Memory.store m (a + 1) (readWbuf m (a + 1) ||| (v &&& mask k) >>> (32 - b))
      else m := by
  simp only [packSpan, setCur_wbuf, orField, setAddr_aidx, setAddr_boff, crosses, availBits, Bool.and_eq_true,
    decide_eq_true_eq]
  split <;> rfl

theorem pushOvf_onlyWork (v : Word) (s : State) : OnlyWork s (pushOvf v s) := rfl

theorem scanMax_onlyWork (n : Nat) (s : State) : OnlyWork s (scanMax n s) :=
  OnlyWork.trans (t := setMaxv 0 s) rfl
    (forElements_onlyWork _ (fun _ _ => by rw [raiseMaxv_eq]; rfl) n _)

theorem scanFields_onlyWork (n : Nat) (s : State) : OnlyWork s (scanFields n s) :=
  OnlyWork.trans (t := setMaxv (synthetic s.sentinel) s) rfl
    (forElements_onlyWork _ (fun _ _ => by rw [raiseMaxv_eq]; rfl) n _)

theorem clearWords_onlyWork (wc : Nat) (s : State) : OnlyWork s (clearWords wc s) :=
  forEach_frame OnlyWork.refl (fun _ _ _ => OnlyWork.trans) _ (fun _ _ => by unfold OnlyWork; rfl) wc s

theorem packOverflow_onlyWork (k wc j : Nat) (s : State) : OnlyWork s (packOverflow k wc j s) := by
  unfold packOverflow; dsimp only
  split
  · exact (pushOvf_onlyWork _ s).trans (packSpan_onlyWork _ k wc _)
  · exact packSpan_onlyWork _ k wc s

/-- R84: beside the datapath's working state the body of COMPRESS writes N, K, WC and OC only. -/
theorem compressBody_eq (n : Nat) (s : State) :
    compressBody n s =
      { s with n := BitVec.ofNat 24 n, k := (compressBody n s).k, wc := (compressBody n s).wc,
               oc := (compressBody n s).oc, wbuf := (compressBody n s).wbuf, ovf := (compressBody n s).ovf,
               obuf := (compressBody n s).obuf, seq := (compressBody n s).seq } := by
  have key : ∀ (t : State) (k wc oc : Nat), OnlyWork s t →
      setCodec n k wc oc t = { s with
        n := BitVec.ofNat 24 n, k := (setCodec n k wc oc t).k, wc := (setCodec n k wc oc t).wc,
        oc := (setCodec n k wc oc t).oc, wbuf := t.wbuf, ovf := t.ovf, obuf := t.obuf, seq := t.seq } := by
    intro t k wc oc h
    unfold OnlyWork at h; rw [h]; rfl
  unfold compressBody
  split
  · exact key _ _ _ _ (((scanMax_onlyWork n s).trans (clearWords_onlyWork _ _)).trans
      (forElements_onlyWork _ (fun _ _ => by unfold OnlyWork; rfl) n _))
  · exact key _ _ _ _ (((scanMax_onlyWork n s).trans (clearWords_onlyWork _ _)).trans
      (OnlyWork.trans (t := setCur 0 _) rfl (forElements_onlyWork _ (fun _ _ => packSpan_onlyWork _ _ _ _) n _)))
  · exact key _ _ _ _ ((((scanFields_onlyWork n s).trans (clearWords_onlyWork _ _)).trans
      (OnlyWork.trans (t := setP 0 (setCur 0 _)) rfl
        (forElements_onlyWork _ (fun _ _ => packOverflow_onlyWork _ _ _ _) n _))).trans (packSpan_onlyWork _ _ _ _))

/-- `t` is `s` but for OBUF and the sequencer registers. -/
def OnlyObuf (s t : State) : Prop := t = { s with obuf := t.obuf, seq := t.seq }

theorem OnlyObuf.refl (s : State) : OnlyObuf s s := rfl

theorem OnlyObuf.trans {s t u : State} (h : OnlyObuf s t) (g : OnlyObuf t u) : OnlyObuf s u := by
  unfold OnlyObuf at *; rw [h] at g; exact g

theorem forElements_onlyObuf (body : Nat → State → State) (hb : ∀ j t, OnlyObuf t (body j t)) (count : Nat)
    (s : State) : OnlyObuf s (forElements body count s) :=
  forEach_frame OnlyObuf.refl (fun _ _ _ => OnlyObuf.trans) _
    (fun j t => OnlyObuf.trans (t := setJ j t) rfl (hb j _)) count s

/-- R86, R88: the body of DECOMPRESS writes OBUF and the sequencer registers only. -/
theorem decompressBody_onlyObuf (s : State) : OnlyObuf s (decompressBody s) := by
  unfold decompressBody
  split
  · exact forElements_onlyObuf _ (fun _ _ => by unfold OnlyObuf; rfl) _ s
  · exact forElements_onlyObuf _ (fun _ _ => by unfold OnlyObuf; rfl) _ s
  · refine OnlyObuf.trans (t := setP 0 s) rfl (forElements_onlyObuf _ (fun j t => ?_) _ _)
    unfold unpackOverflow OnlyObuf; dsimp only; split <;> rfl

/-! ### Inversion: everything a command, a host move or a step can do -/

/-- R84: COMPRESS is one of four transitions. -/
theorem compress_cases (n : Nat) (s : State) :
    (s.nmax.toNat < n ∧ compress n s = raise .capacityExceeded (BitVec.ofNat 32 n) s) ∨
    (∃ j, n ≤ s.nmax.toNat ∧ j < n ∧ isNegative (readIbuf s j) = true ∧
      (∀ i < j, isNegative (readIbuf s i) = false) ∧
      compress n s = raise .unsupportedValue (BitVec.ofNat 32 j) s) ∨
    (n = 0 ∧ compress n s = complete (setCodec 0 0 0 0 s)) ∨
    (1 ≤ n ∧ n ≤ s.nmax.toNat ∧ (∀ i < n, isNegative (readIbuf s i) = false) ∧
      compress n s = complete (compressBody n s)) := by
  unfold compress
  by_cases hn : s.nmax.toNat < n
  · simp [hn]
  · have hspec := leastIndex_spec (fun j => isNegative (readIbuf s j)) n
    simp only [hn, if_false]
    cases h : leastIndex (fun j => isNegative (readIbuf s j)) n with
    | some j =>
      rw [h] at hspec
      exact .inr (.inl ⟨j, by omega, hspec.1, hspec.2.1, hspec.2.2, rfl⟩)
    | none =>
      rw [h] at hspec
      by_cases h0 : n = 0
      · subst h0; simp
      · exact .inr (.inr (.inr ⟨by omega, by omega, hspec, by simp [h0]⟩))

/-- R85: GET is one of two transitions; the seek leaves no trace after completion. -/
theorem get_cases (i : Nat) (s : State) :
    (s.n.toNat ≤ i ∧ get i s = raise .invalidIndex (BitVec.ofNat 32 i) s) ∨
    (i < s.n.toNat ∧ get i s = complete { s with res := element s i }) := by
  unfold get
  by_cases h : s.n.toNat ≤ i
  · simp [h]
  · refine .inr ⟨by omega, ?_⟩
    rw [if_neg h, seekElement_eq]; rfl

/-- R86: DECOMPRESS writes OBUF, OLEN and the flags. -/
theorem decompress_eq (s : State) :
    decompress s = complete { s with olen := s.n, obuf := (decompressBody s).obuf } := by
  have h := decompressBody_onlyObuf s
  unfold OnlyObuf at h
  unfold decompress; dsimp only; rw [h]; rfl

/-- R83: CONFIG is one of three kinds of transition. -/
theorem config_cases (modef mbf : Nat) (s : State) :
    (modef = 0 ∧ config modef mbf s = complete (configure .nonspan 0 0 s)) ∨
    (modef = 1 ∧ config modef mbf s = complete (configure .span 0 0 s)) ∨
    (modef = 2 ∧ (mbf < 1 ∨ 32 < mbf) ∧
      config modef mbf s = raise .invalidConfiguration (BitVec.ofNat 32 mbf) s) ∨
    (modef = 2 ∧ 1 ≤ mbf ∧ mbf ≤ 32 ∧ config modef mbf s = complete (configure .overflow mbf (mask mbf) s)) ∨
    (3 ≤ modef ∧ config modef mbf s = raise .unknownStrategy (BitVec.ofNat 32 modef) s) := by
  match modef with
  | 0 => simp [config]
  | 1 => simp [config]
  | 2 =>
    by_cases h : mbf < 1 ∨ 32 < mbf
    · exact .inr (.inr (.inl ⟨rfl, h, by simp only [config, if_pos h]⟩))
    · refine .inr (.inr (.inr (.inl ⟨rfl, by omega, by omega, ?_⟩)))
      simp only [config, if_neg h]
  | m + 3 => simp [config]

/-- One move of the host when the block is idle. -/
theorem hostMove_idle (m : HostMove) (s : State) (h : s.busy = false) :
    hostMove m s = match m with
      | .reset => .next (resetEvent s)
      | .readReg r => .next { s with answer := some (.word (regWord r.toNat s)) }
      | .writeReg r w => if r = 0 then issue w s else .next s
      | .readEntry space a => .next { s with answer := some (entryData space a.toNat s) }
      | .writeIbuf j v => .next (hostWriteIbuf j.toNat v s) := by
  cases m with
  | readReg r =>
    by_cases hr : r = 1
    · subst hr; rfl
    · simp only [hostMove, if_neg hr, whenIdle, h]; rfl
  | _ => simp [hostMove, whenIdle, h]

end Sys2Proof.Machine
end

