-- ==== Sys2Proof/Laws/PerInstr.lean ====
section
/-! SUPPORT. Statements made per instruction, each about the instruction as it is encoded: the encoding of a
well-formed command matches its own row of the opcode table (30_encoding.md R64). -/

namespace Sys2Proof.Laws.MatchRow

/-- The encoding of a well-formed command, under its row's mask, is its row's match (R64). -/
def Statement (i : Instr) : Prop := i.wellFormed = true → encode i &&& rowMask i = rowMatch i

/-- The mask of format A keeps bits 31:24. -/
theorem and_mask_24 (w : Word) : w &&& 0xFF000000 = BitVec.ofNat 32 (w.toNat / 2 ^ 24 * 2 ^ 24) := by
  have bit : ∀ j : Fin 32, (0xFF000000 : Word).getLsbD j = decide (24 ≤ j.val) := by decide
  apply BitVec.eq_of_getLsbD_eq
  intro i hi
  have h := bit ⟨i, hi⟩
  simp only at h
  simp only [BitVec.getLsbD_and, BitVec.getLsbD_ofNat, ← Nat.shiftLeft_eq, Nat.testBit_shiftLeft,
    Nat.testBit_div_two_pow, h]
  by_cases hl : 24 ≤ i
  · simp [hl, hi, BitVec.getLsbD]
  · simp [hl]

/-- The mask of format C keeps bits 31:10 and 7:6. -/
theorem and_mask_config (w : Word) :
    w &&& 0xFFFFFCC0 = BitVec.ofNat 32 (w.toNat / 2 ^ 10 * 2 ^ 10 + bits w 7 6 * 2 ^ 6) := by
  have bit : ∀ j : Fin 32,
      (0xFFFFFCC0 : Word).getLsbD j = (decide (10 ≤ j.val) || (decide (6 ≤ j.val) && decide (j.val < 8))) := by
    decide
  have sum : w.toNat / 2 ^ 10 * 2 ^ 10 + bits w 7 6 * 2 ^ 6 = w.toNat / 2 ^ 10 * 2 ^ 10 ||| bits w 7 6 * 2 ^ 6 := by
    rw [Nat.mul_comm _ (2 ^ 10), Nat.two_pow_add_eq_or_of_lt (i := 10)]
    simp only [bits]; omega
  rw [sum]
  apply BitVec.eq_of_getLsbD_eq
  intro i hi
  have h := bit ⟨i, hi⟩
  simp only at h
  simp only [BitVec.getLsbD_and, BitVec.getLsbD_ofNat, ← Nat.shiftLeft_eq, Nat.testBit_shiftLeft, Nat.testBit_or,
    bits, Nat.testBit_mod_two_pow, Nat.testBit_div_two_pow, h]
  by_cases hl : 10 ≤ i
  · have : ¬ (i - 6 < 2) := by omega
    simp [hl, hi, BitVec.getLsbD, this]
  · by_cases h6 : 6 ≤ i
    · have e8 : (i - 6 < 2) ↔ i < 8 := by omega
      simp [hl, h6, hi, BitVec.getLsbD, e8, Bool.and_comm]
    · simp [hl, h6]

theorem config (modef mbf : Nat) : Statement (.config modef mbf) := by
  intro h
  simp only [Instr.wellFormed, Bool.and_eq_true, decide_eq_true_eq] at h
  simp only [encode, rowMask, rowMatch, and_mask_config, bits, BitVec.toNat_ofNat]
  show _ = BitVec.ofNat 32 0x10000000
  congr 1
  omega

theorem compress (n : Nat) : Statement (.compress n) := by
  intro h
  simp only [Instr.wellFormed, decide_eq_true_eq] at h
  simp only [encode, rowMask, rowMatch, and_mask_24, BitVec.toNat_ofNat]
  show _ = BitVec.ofNat 32 0x20000000
  congr 1
  omega

theorem get (i : Nat) : Statement (.get i) := by
  intro h
  simp only [Instr.wellFormed, decide_eq_true_eq] at h
  simp only [encode, rowMask, rowMatch, and_mask_24, BitVec.toNat_ofNat]
  show _ = BitVec.ofNat 32 0x30000000
  congr 1
  omega

theorem decompress : Statement .decompress := fun _ => by decide

theorem size : Statement .size := fun _ => by decide

end Sys2Proof.Laws.MatchRow
end

