-- ==== Sys2Proof/Laws/Step.lean ====
section
/-! SUPPORT. What clearing, scanning, the reset event, a command and a step can do, each said once; the provers cite
these instead of unfolding. -/

namespace Sys2Proof.Machine

/-! ### Clearing and scanning -/

/-- D14: clearing writes WBUF only. -/
theorem clearWords_eq (wc : Nat) (s : State) : clearWords wc s = { s with wbuf := (clearWords wc s).wbuf } :=
  forEach_induct (fun _ t => t = { s with wbuf := t.wbuf }) _ wc s rfl fun j t _ h => by rw [h]; rfl

/-- D14: after clearing, the first wc words hold 0 and every other entry reads as before. -/
theorem clearWords_lookup (wc : Nat) (s : State) (a : Nat) :
    Memory.lookup (clearWords wc s).wbuf a = if a < wc then some 0 else Memory.lookup s.wbuf a := by
  induction wc with
  | zero => simp [clearWords, forEach]
  | succ c ih =>
    show Memory.lookup (Memory.store (clearWords c s).wbuf c 0) a = _
    rw [Memory.lookup_store, ih]
    by_cases h : a = c
    · simp [h]
    · have : a < c + 1 ↔ a < c := by omega
      simp [h, this]

/-- The scan of R121, R136 and R170: MAXV ends as the largest of its start value and the scanned values. -/
theorem scan_spec (f : Nat → State → Word) (g : Nat → Word) (s : State) (start : Word)
    (hf : ∀ j t, OnlyWork s t → f j t = g j) (n : Nat) :
    let t := forElements (fun j t => raiseMaxv (f j t) t) n (setMaxv start s)
    start.toNat ≤ t.seq.maxv.toNat ∧ (∀ j < n, (g j).toNat ≤ t.seq.maxv.toNat) ∧
      (t.seq.maxv = start ∨ ∃ j < n, t.seq.maxv = g j) := by
  induction n with
  | zero => simp
  | succ c ih =>
    have frame : OnlyWork s (setJ c (forElements (fun j t => raiseMaxv (f j t) t) c (setMaxv start s))) :=
      OnlyWork.trans (OnlyWork.trans (t := setMaxv start s) rfl
        (forElements_onlyWork _ (fun _ _ => by rw [raiseMaxv_eq]; rfl) c _)) rfl
    have value := hf c _ frame
    simp only [forElements_succ]
    simp only at ih
    generalize forElements (fun j t => raiseMaxv (f j t) t) c (setMaxv start s) = u at ih value ⊢
    obtain ⟨h1, h2, h3⟩ := ih
    simp only [raiseMaxv_eq, value, setMaxv_seq, setJ_seq]
    obtain ⟨hu, hg, he⟩ := wordMax_spec u.seq.maxv (g c)
    refine ⟨le_trans h1 hu, fun j hj => ?_, ?_⟩
    · rcases Nat.lt_succ_iff_lt_or_eq.1 hj with h | h
      · exact le_trans (h2 j h) hu
      · subst h; exact hg
    · rcases he with e | e
      · exact h3.imp (fun h => e.trans h) fun ⟨j, hj, h⟩ => ⟨j, Nat.lt_succ_of_lt hj, e.trans h⟩
      · exact .inr ⟨c, Nat.lt_succ_self c, e⟩

/-- R121, R136: the largest value of the input. -/
theorem scanMax_spec (n : Nat) (s : State) :
    (∀ j < n, (elementWord (readIbuf s j)).toNat ≤ (scanMax n s).seq.maxv.toNat) ∧
      ((scanMax n s).seq.maxv = 0 ∨ ∃ j < n, (scanMax n s).seq.maxv = elementWord (readIbuf s j)) := by
  have h := scan_spec (fun j t => elementWord (readIbuf t j)) (fun j => elementWord (readIbuf s j)) s 0
    (fun j t ht => by unfold OnlyWork at ht; rw [ht]; rfl) n
  exact ⟨h.2.1, h.2.2⟩

/-- R170: the largest main-stream field, the synthetic element among them. -/
theorem scanFields_spec (n : Nat) (s : State) :
    (synthetic s.sentinel).toNat ≤ (scanFields n s).seq.maxv.toNat ∧
      (∀ j < n, (dispatchField (elementWord (readIbuf s j)) s.sentinel).toNat ≤ (scanFields n s).seq.maxv.toNat) ∧
      ((scanFields n s).seq.maxv = synthetic s.sentinel ∨
        ∃ j < n, (scanFields n s).seq.maxv = dispatchField (elementWord (readIbuf s j)) s.sentinel) :=
  scan_spec (fun j t => dispatchField (elementWord (readIbuf t j)) t.sentinel)
    (fun j => dispatchField (elementWord (readIbuf s j)) s.sentinel) s (synthetic s.sentinel)
    (fun j t ht => by unfold OnlyWork at ht; rw [ht]; rfl) n

/-! ### Inversion of a command and of a step -/

/-- R203: a command always answers a next state, the one its transition gives. -/
theorem exec_eq (i : Instr) (s : State) :
    exec i s = .next (match i with
      | .config modef mbf => config modef mbf s
      | .compress n => compress n s
      | .get j => get j s
      | .decompress => decompress s
      | .size => size s) := by
  cases i <;> rfl

/-- Everything a step can do that answers a next state. -/
theorem step_cases {s t : State} (h : step s = .next t) :
    (s.moves = [] ∧ s.busy = false ∧ t = s) ∨
    ∃ m rest, s.moves = m :: rest ∧
      ((m = .reset ∧ t = resetEvent { s with moves := rest }) ∨
       (∃ d, t = { s with moves := rest, answer := some d }) ∨
       (s.busy = false ∧ t = { s with moves := rest }) ∨
       (∃ j v, m = .writeIbuf j v ∧ s.busy = false ∧ t = hostWriteIbuf j.toNat v { s with moves := rest }) ∨
       (∃ w i, m = .writeReg 0 w ∧ s.busy = false ∧ decode w = .command i ∧
         exec i { s with moves := rest, busy := true } = .next t) ∨
       (∃ w v, m = .writeReg 0 w ∧ s.busy = false ∧ decode w = .illegal v ∧
         t = raise .illegalCommand v { s with moves := rest, busy := true })) := by
  unfold step hostTurn at h
  cases hm : s.moves with
  | nil =>
    rw [hm] at h
    by_cases hb : s.busy = true
    · simp [hb] at h
    · simp [hb] at h; exact .inl ⟨rfl, by simpa using hb, h.symm⟩
  | cons m rest =>
    refine .inr ⟨m, rest, rfl, ?_⟩
    rw [hm] at h
    by_cases hb : s.busy = true
    · cases m with
      | reset => injection h with h; exact .inl ⟨rfl, h.symm⟩
      | readReg r =>
        by_cases hr : r = 1
        · subst hr; injection h with h; exact .inr (.inl ⟨_, h.symm⟩)
        · simp only [hostMove, if_neg hr, whenIdle, hb] at h; cases h
      | writeReg r w => simp only [hostMove, whenIdle, hb] at h; cases h
      | readEntry space a => simp only [hostMove, whenIdle, hb] at h; cases h
      | writeIbuf j v => simp only [hostMove, whenIdle, hb] at h; cases h
    · have hb : s.busy = false := by simpa using hb
      replace h : hostMove m { s with moves := rest } = .next t := h
      rw [hostMove_idle _ { s with moves := rest } hb] at h
      cases m with
      | reset => injection h with h; exact .inl ⟨rfl, h.symm⟩
      | readReg r => injection h with h; exact .inr (.inl ⟨_, h.symm⟩)
      | readEntry space a => injection h with h; exact .inr (.inl ⟨_, h.symm⟩)
      | writeIbuf j v => injection h with h; exact .inr (.inr (.inr (.inl ⟨j, v, rfl, hb, h.symm⟩)))
      | writeReg r w =>
        by_cases hr : r = 0
        · subst hr
          simp only [if_true, issue] at h
          cases hd : decode w with
          | command i => rw [hd] at h; exact .inr (.inr (.inr (.inr (.inl ⟨w, i, rfl, hb, hd, h⟩))))
          | illegal v =>
            rw [hd] at h; injection h with h
            exact .inr (.inr (.inr (.inr (.inr ⟨w, v, rfl, hb, hd, h.symm⟩))))
        · simp only [if_neg hr] at h
          injection h with h
          exact .inr (.inr (.inl ⟨hb, h.symm⟩))

end Sys2Proof.Machine
end

