-- ==== Sys2Proof/Tests/Slice0.lean ====
section
/-! SUPPORT. Tests of one step each, with expected values from spec/95_test_vectors.md and the examples of the command
rules; the WellFormed smoke tests; and for each statement with hypotheses a witness that meets them. -/

namespace Sys2Proof.Tests

open Sys2Proof Sys2Proof.Machine

/-! ### Small states -/

/-- An IBUF (or other memory) holding the listed entries from index j on. -/
def entriesFrom {width : Nat} (j : Nat) : List Nat → Memory width
  | [] => []
  | v :: vs => (j, BitVec.ofNat width v) :: entriesFrom (j + 1) vs

/-- The reset state of a block with NMAX = 16 and IBUF holding a sequence. -/
def withInput (mode : Mode) (input : List Nat) : State :=
  { State.resetAt 16 with mode := mode, ibuf := entriesFrom 0 input }

/-- The same after CONFIG OVERFLOW, mb. -/
def overflowInput (mb : Nat) (input : List Nat) : State :=
  { withInput .overflow input with mainBits := BitVec.ofNat 6 mb, sentinel := BitVec.ofNat 32 (2 ^ mb - 1) }

/-- A state with a packed buffer. -/
def packed (mode : Mode) (n k : Nat) (words : List Nat) : State :=
  { State.resetAt 16 with
    mode := mode, n := BitVec.ofNat 24 n, k := BitVec.ofNat 6 k, wc := BitVec.ofNat 25 words.length
    wbuf := entriesFrom 0 words }

/-- Scenario C after COMPRESS 7 (R182). -/
def scenarioC : State :=
  { packed .overflow 7 3 [0x00DECED1] with mainBits := 3, sentinel := 7, oc := 2, ovf := entriesFrom 0 [1024, 2048] }

/-- A state whose host has one move to make. -/
def withMove (s : State) (m : HostMove) : State := { s with moves := [m] }

/-- One part of the state an outcome answers. -/
def after {α : Type} (o : Host.Outcome State Fault Refusal) (part : State → α) : Option α :=
  match o with
  | .next t => some (part t)
  | _ => none

/-- The words of a memory. -/
def entries {width : Nat} (m : Memory width) : List Nat := m.map fun e => e.2.toNat

/-! ### WellFormed smoke tests -/

theorem test_wf_modef : (Instr.config 4 0).wellFormed = false ∧ (Instr.config 3 63).wellFormed = true := by decide
theorem test_wf_mbf : (Instr.config 0 64).wellFormed = false := by decide
theorem test_wf_count : (Instr.compress 16777216).wellFormed = false ∧ (Instr.compress 16777215).wellFormed = true := by
  decide
theorem test_wf_index : (Instr.get 16777216).wellFormed = false ∧ (Instr.get 16777215).wellFormed = true := by decide
theorem test_wf_plain : Instr.decompress.wellFormed = true ∧ Instr.size.wellFormed = true := by decide
theorem test_wf_asm : (AsmLine.configOverflow 64).wellFormed = false ∧ (AsmLine.configRaw 4 0).wellFormed = false ∧
    (AsmLine.configRaw 0 64).wellFormed = false ∧ (AsmLine.compress 16777216).wellFormed = false ∧
    (AsmLine.get 16777216).wellFormed = false ∧ (AsmLine.word 4294967296).wellFormed = false := by decide

/-! ### Decoding: words written out from the formats of R61 -/

theorem test_decode_config : decode 0b0001000000000000000000_10_00_000011 = .command (.config 2 3) := by decide
theorem test_decode_compress : decode 0b0010_0000_000000000000000000001010 = .command (.compress 10) := by decide
theorem test_decode_get : decode 0b0011_0000_000000000000000000000110 = .command (.get 6) := by decide
theorem test_decode_decompress : decode 0b0100_0000000000000000000000000000 = .command .decompress := by decide
theorem test_decode_size : decode 0b0101_0000000000000000000000000000 = .command .size := by decide
/-- Part 8: a bit in a zero field, the all-zero and the all-one word, and OP = 6 are illegal. -/
theorem test_decode_illegal : decode 0x10000403 = .illegal 0x10000403 ∧ decode 0x11000100 = .illegal 0x11000100 ∧
    decode 0x21000006 = .illegal 0x21000006 ∧ decode 0x50000100 = .illegal 0x50000100 ∧ decode 0 = .illegal 0 ∧
    decode 0xFFFFFFFF = .illegal 0xFFFFFFFF ∧ decode 0x60000000 = .illegal 0x60000000 := by decide
theorem test_encode : encode (.config 2 3) = 0x10000203 ∧ encode (.compress 10) = 0x2000000A ∧
    encode (.get 6) = 0x30000006 ∧ encode .decompress = 0x40000000 ∧ encode .size = 0x50000000 := by decide
theorem test_decode_table_word : decodeTableWord 32 0x1000033F = some (.config 3 63) ∧
    decodeTableWord 32 0x60000000 = none := by decide
theorem test_assemble : assemble (.configOverflow 8) = some 0x10000208 ∧ assemble (.configRaw 3 40) = some 0x10000328 ∧
    assemble (.compress 17) = some 0x20000011 ∧ assemble (.get 16777216) = none := by decide

/-! ### The calculator: part 2 of 95_test_vectors.md -/

theorem test_bit_length : [0, 1, 2, 3, 4, 7, 8, 255, 256, 4095, 4096, 2147483648, 4294967295].map bitLength =
    [0, 1, 2, 2, 3, 3, 4, 8, 9, 12, 13, 32, 32] ∧ widthOf 0 = 1 ∧ widthOf 7 = 3 := by decide
theorem test_mask : mask 0 = 0 ∧ mask 12 = 0xFFF ∧ mask 31 = 0x7FFFFFFF ∧ mask 32 = 0xFFFFFFFF := by decide
theorem test_word_counts : wcSpan 33 1 = 2 ∧ wcNonspan 33 1 = 2 ∧ wcSpan 6 12 = 3 ∧ wcNonspan 6 12 = 3 ∧
    wcSpan 4 17 = 3 ∧ wcNonspan 4 17 = 4 ∧ wcSpan 16777215 31 = 16252928 ∧ wcNonspan 16777215 1 = 524288 := by decide
theorem test_addr_span : arrayIndex (spanCursor 3 17) = 1 ∧ bitOffset (spanCursor 3 17) = 19 ∧ crosses 19 17 = true ∧
    availBits 19 = 13 ∧ remBits 19 17 = 4 ∧ crosses 31 1 = false := by decide
theorem test_addr_nonspan : nonspanIndex 5 12 = 2 ∧ nonspanOffset 5 12 = 12 ∧ nonspanIndex 9 3 = 0 ∧
    nonspanOffset 9 3 = 27 ∧ nonspanIndex 10 3 = 1 ∧ nonspanOffset 10 3 = 0 := by decide

/-! ### CONFIG: part 7 -/

theorem test_config_overflow : after (exec (.config 2 32) scenarioC)
    (fun t => (t.mode, t.mainBits, t.sentinel, t.n, t.wc + t.oc.setWidth 25, t.errcode)) =
      some (.overflow, 32, 0xFFFFFFFF, 0, 0, 0) := by decide
theorem test_config_errors : after (exec (.config 3 40) scenarioC) (fun t => (t.errcode, t.errinfo, t.n)) = some (2, 3, 7) ∧
    after (exec (.config 2 33) scenarioC) (fun t => (t.errcode, t.errinfo, t.mode)) = some (3, 33, .overflow) := by decide

/-! ### COMPRESS: scenario B in two layouts (the second over an older buffer), and a value equal to the sentinel -/

/-- R136, R140: two elements cross; R121: no lane crosses; part 6: 15 diverts, the synthetic 14 is alone in word 1. -/
theorem test_compress_packs :
    after (exec (.compress 6) (withInput .span [100, 2000, 4095, 0, 1234, 567]))
      (fun t => (entries t.wbuf, t.n, t.k, t.wc)) = some ([0xFF7D0064, 0x74D2000F, 0x00000023], 6, 12, 3) ∧
    after (exec (.compress 6)
        { withInput .nonspan [100, 2000, 4095, 0, 1234, 567] with wbuf := [(0, 0xFFFFFFFF)] })
      (fun t => (entries t.wbuf, t.k, t.wc)) = some ([0x007D0064, 0x00000FFF, 0x002374D2], 12, 3) ∧
    after (exec (.compress 8) (overflowInput 4 [15, 0, 14, 16, 1, 2, 3, 4]))
      (fun t => (entries t.wbuf, entries t.ovf, t.wc, t.oc)) = some ([0x4321FE0F, 0x0000000E], [15, 16], 2, 2) := by
  decide +kernel
/-- Part 8: the least negative index, and capacity before the scan; R84: no synthetic element for empty input. -/
theorem test_compress_errors_and_empty :
    after (exec (.compress 4) { withInput .span [] with ibuf := [(0, 4), (1, -1), (2, 7), (3, -9)] })
      (fun t => (t.errcode, t.errinfo)) = some (4, 1) ∧
    after (exec (.compress 17) { withInput .span [] with ibuf := [(0, -1)] })
      (fun t => (t.errcode, t.errinfo)) = some (5, 17) ∧
    after (exec (.compress 0) scenarioC) (fun t => (t.n, t.k, t.wc, t.oc, t.errcode)) = some (0, 0, 0, 0, 0) := by
  decide

/-! ### GET, DECOMPRESS, SIZE -/

/-- R151: element 5 crosses into word 2; R123: lane 1 of word 2. -/
theorem test_get_plain : after (exec (.get 5) (packed .span 6 12 [0xFF7D0064, 0x74D2000F, 0x23])) State.res = some 567 ∧
    after (exec (.get 5) (packed .nonspan 6 12 [0x007D0064, 0xFFF, 0x002374D2])) State.res = some 567 := by decide
/-- R175: rank 1; the synthetic field at index 7 is out of reach. -/
theorem test_get_overflow : after (exec (.get 6) scenarioC) State.res = some 2048 ∧
    after (exec (.get 4) scenarioC) State.res = some 4 ∧
    after (exec (.get 7) scenarioC) (fun t => (t.errcode, t.errinfo, t.res)) = some (1, 7, 0) := by decide
/-- R178: the forward pass. -/
theorem test_decompress_overflow : after (exec .decompress scenarioC) (fun t => (entries t.obuf, t.olen)) =
    some ([1, 2, 3, 1024, 4, 5, 2048], 7) := by decide
/-- R154, R155. -/
theorem test_decompress_span : after (exec .decompress (packed .span 6 12 [0xFF7D0064, 0x74D2000F, 0x23]))
    (fun t => (entries t.obuf, t.olen)) = some ([100, 2000, 4095, 0, 1234, 567], 6) := by decide
/-- R87. -/
theorem test_size : after (exec .size scenarioC) State.res = some 12 := by decide

/-! ### The host port -/

theorem test_step_get : after (step (scenarioC.withFetchWord 32 0x30000003)) State.res = some 1024 := by decide
theorem test_step_illegal : after (step (State.reset.withFetchWord 32 0x60000000)) (fun t => (t.errcode, t.errinfo)) =
    some (6, 0x60000000) := by decide
/-- STATUS after an error reads code * 0x100; WBUF beyond WC reads 0. -/
theorem test_host_reads :
    after (step (withMove { scenarioC with errcode := 6 } (.readReg 1))) State.answer = some (some (.word 0x600)) ∧
    after (step (withMove scenarioC (.readEntry .wbuf 0))) State.answer = some (some (.word 0x00DECED1)) ∧
    after (step (withMove { scenarioC with wbuf := [(0, 1), (1, 2)] } (.readEntry .wbuf 1))) State.answer =
      some (some (.word 0)) := by decide
theorem test_wri : wri 2 [-5] = some [.writeIbuf 2 (-5)] ∧ wri 0 [4294967296] = none := by decide
/-- R42: the little-endian byte view. -/
theorem test_word_byte : wordByte 0x11223344 0 = 0x44 ∧ wordByte 0x11223344 3 = 0x11 := by decide

/-! ### Witnesses: for each statement with hypotheses, a state and operands that meet them -/

theorem witness_EncodeThenDecode : (Instr.config 3 63).wellFormed = true ∧ (Instr.compress 16777215).wellFormed = true ∧
    (Instr.get 0).wellFormed = true := by decide
theorem witness_DecodeThenEncode : decode 0x1000033F = .command (.config 3 63) := by decide
theorem witness_AssemblerWords : assemble (.configRaw 3 63) = some 0x1000033F ∧ assemble (.configRaw 3 64) = none ∧
    assemble (.configOverflow 63) = some 0x1000023F ∧ assemble (.configOverflow 64) = none ∧
    assemble (.compress 16777215) = some 0x20FFFFFF ∧ assemble (.compress 16777216) = none ∧
    assemble (.get 16777215) = some 0x30FFFFFF ∧ assemble (.word 4294967295) = some 0xFFFFFFFF ∧
    assemble (.word 4294967296) = none := by decide
theorem witness_StepRunsDecodedCommand : scenarioC.busy = false ∧
    (withMove scenarioC (.writeReg 0 0x30000003)).moves = [.writeReg 0 0x30000003] ∧
    decode 0x30000003 = .command (.get 3) := by decide
theorem witness_IllegalWordReported : scenarioC.busy = false ∧
    (0x10000040 : Word) &&& 0xFFFFFCC0 ≠ 0x10000000 ∧ (0x10000040 : Word) &&& 0xFF000000 ≠ 0x20000000 ∧
    (0x10000040 : Word) &&& 0xFF000000 ≠ 0x30000000 ∧ (0x10000040 : Word) ≠ 0x40000000 ∧
    (0x10000040 : Word) ≠ 0x50000000 := by decide
theorem witness_IdleBlockNeverStops : scenarioC.busy = false ∧ scenarioC.moves = [] := by decide
theorem witness_BusyHazard : (withMove { scenarioC with busy := true } (.readReg 1)).moves = [.readReg 1] ∧
    (withMove { scenarioC with busy := true } .reset).moves = [.reset] ∧
    (withMove { scenarioC with busy := true } (.readReg 0)).busy = true ∧
    HostMove.readReg 0 ≠ .readReg 1 ∧ HostMove.readReg 0 ≠ .reset := by decide
theorem witness_ConfigChoosesLayout : (3 < 4 ∧ 0 < 64) ∧ (2 = 2 ∧ (0 < 1 ∨ 32 < 0)) ∧ (2 = 2 ∧ (33 < 1 ∨ 32 < 33)) ∧
    ¬ (2 = 2 ∧ (32 < 1 ∨ 32 < 32)) ∧ ¬ (2 = 2 ∧ (1 < 1 ∨ 32 < 1)) := by decide
theorem witness_ErrorKindTable : (withInput .span []).nmax.toNat < 17 ∧ 16 ≤ (withInput .span []).nmax.toNat ∧
    (Instr.compress 17).wellFormed = true ∧
    ¬ InputSupported { withInput .span [] with ibuf := [(0, -1)] } 1 ∧ InputSupported (withInput .span [0]) 1 := by
  unfold InputSupported; decide
theorem witness_FailingCommandIsPrecise : exec (.get 7) scenarioC = .next (get 7 scenarioC) ∧
    (get 7 scenarioC).errcode ≠ 0 := ⟨rfl, by decide⟩
theorem witness_CompressOverCapacity : (withInput .span []).nmax.toNat < 17 := by decide
theorem witness_CompressNegativeInput :
    3 ≤ ({ withInput .span [] with ibuf := [(0, 4), (1, -1), (2, -7)] } : State).nmax.toNat ∧ 1 < 3 ∧
    (readIbuf { withInput .span [] with ibuf := [(0, 4), (1, -1), (2, -7)] } 1).toInt < 0 ∧
    InputSupported { withInput .span [] with ibuf := [(0, 4), (1, -1), (2, -7)] } 1 := by
  unfold InputSupported; decide
theorem witness_GetOutOfRange : scenarioC.n.toNat ≤ 7 ∧ (State.resetAt 16).n.toNat ≤ 0 := by decide
theorem witness_CompressNonspanPacks : (withInput .nonspan [7, 6, 5]).mode = .nonspan ∧ 1 ≤ 3 ∧
    3 ≤ (withInput .nonspan [7, 6, 5]).nmax.toNat ∧ InputSupported (withInput .nonspan [7, 6, 5]) 3 := by
  unfold InputSupported; decide
theorem witness_CompressSpanPacks : (withInput .span [4294967295, 0]).mode = .span ∧ 1 ≤ 2 ∧
    2 ≤ (withInput .span [4294967295, 0]).nmax.toNat ∧ InputSupported (withInput .span [4294967295, 0]) 2 := by
  unfold InputSupported; decide
theorem witness_CompressOverflowPacks : (overflowInput 3 [7, 6, 8]).mode = .overflow ∧
    OverflowLegal (overflowInput 3 [7, 6, 8]) ∧ 1 ≤ 3 ∧ 3 ≤ (overflowInput 3 [7, 6, 8]).nmax.toNat ∧
    InputSupported (overflowInput 3 [7, 6, 8]) 3 := by
  unfold InputSupported OverflowLegal; decide
theorem witness_CompressFrame :
    exec (.compress 3) (overflowInput 3 [7, 6, 8]) = .next (compress 3 (overflowInput 3 [7, 6, 8])) := rfl
theorem witness_CompressIgnoresEarlierState :
    ({ overflowInput 3 [7, 6, 8] with n := 9, wbuf := [(0, 1)], res := 5 } : State).mode = .overflow ∧
    ({ overflowInput 3 [7, 6, 8] with n := 9, wbuf := [(0, 1)], res := 5 } : State).nmax =
      (overflowInput 3 [7, 6, 8]).nmax ∧
    (∀ j < 3, readIbuf { overflowInput 3 [7, 6, 8] with n := 9, wbuf := [(0, 1)], res := 5 } j =
      readIbuf (overflowInput 3 [7, 6, 8]) j) ∧ (compress 3 (overflowInput 3 [7, 6, 8])).errcode = 0 := by decide
/-- For SpanEqualsNonspanWhenWidthDivides, with a width that divides 32. -/
theorem witness_SpanEqualsNonspan : InputSupported (withInput .nonspan [1, 3]) 2 ∧
    2 ≤ (withInput .nonspan [1, 3]).nmax.toNat ∧ (compress 2 (withInput .nonspan [1, 3])).k.toNat ∣ 32 := by
  unfold InputSupported; decide
theorem witness_GetNonspanLane : (packed .nonspan 6 12 [1, 2, 3]).mode = .nonspan ∧
    5 < (packed .nonspan 6 12 [1, 2, 3]).n.toNat := by decide
theorem witness_GetSpanField : (packed .span 6 12 [1, 2, 3]).mode = .span ∧ (packed .span 6 12 [1, 2, 3]).k.toNat ≤ 32 ∧
    5 < (packed .span 6 12 [1, 2, 3]).n.toNat := by decide
/-- Scenario C with one more word listed, so that the witness does not read a free value, and the host about to issue
DECOMPRESS. -/
def scenarioCWide : State :=
  { withMove scenarioC (.writeReg 0 0x40000000) with wbuf := entriesFrom 0 [0x00DECED1, 0] }

theorem witness_GetOverflowField : scenarioCWide.mode = .overflow ∧ scenarioCWide.k.toNat ≤ 32 ∧
    3 < scenarioCWide.n.toNat ∧ streamField scenarioCWide.wbuf 3 scenarioCWide.k.toNat = scenarioCWide.sentinel.toNat ∧
    streamField scenarioCWide.wbuf 4 scenarioCWide.k.toNat ≠ scenarioCWide.sentinel.toNat := by decide
theorem scenarioCWide_regInv : RegInv scenarioCWide where
  idle := rfl
  nmax_pos := by decide
  n_le := by decide
  olen_le := by decide
  k_zero := by decide
  wc_zero := by decide
  oc_zero := by decide
  config := by unfold ConfigLegal OverflowLegal; decide
  width := by decide
  counts := fun _ => ⟨rfl, by decide, by decide⟩
theorem scenarioCWide_inv : Inv scenarioCWide := by
  refine ⟨scenarioCWide_regInv, ?_, ?_⟩
  · intro _ _; decide
  · have unused : ∀ a < 1, ∀ b < 32, (7 + 1) * 3 ≤ 32 * a + b →
        (readWbuf scenarioCWide.wbuf a).getLsbD b = false := by decide
    exact unused
theorem witness_OverflowRankInRange : Inv scenarioCWide ∧ scenarioCWide.mode = .overflow ∧ 6 < scenarioCWide.n.toNat ∧
    getSpan scenarioCWide.wbuf 6 scenarioCWide.k.toNat = scenarioCWide.sentinel :=
  ⟨scenarioCWide_inv, by decide⟩
theorem witness_SizeCountsBytes : RegInv scenarioCWide ∧ RegInv (State.resetAt 16) ∧ (State.resetAt 16).n = 0 := by
  refine ⟨scenarioCWide_regInv, ?_, rfl⟩
  exact ⟨rfl, by decide, by decide, by decide, by decide, by decide, by decide,
    by unfold ConfigLegal OverflowLegal; decide, by decide, fun h => absurd rfl h⟩
theorem witness_ReadersArePure : (∃ j, Instr.get 3 = .get j) ∧ Instr.decompress = .decompress ∧ Instr.size = .size ∧
    Instr.size ≠ .decompress := ⟨⟨3, rfl⟩, rfl, rfl, by decide⟩
/-- For PointAccessRoundTrip and DecompressRoundTrip. -/
theorem witness_RoundTrips : OverflowLegal (overflowInput 3 [7, 6, 8]) ∧ OverflowLegal (withInput .nonspan [7, 6, 8]) ∧
    3 ≤ (overflowInput 3 [7, 6, 8]).nmax.toNat ∧ InputSupported (overflowInput 3 [7, 6, 8]) 3 ∧
    InputSupported (withInput .nonspan [7, 6, 8]) 3 := by
  unfold InputSupported OverflowLegal; decide
/-- For the five statements on what every step keeps (register clauses, R30 whole, canonical form, depths, NMAX). -/
theorem witness_StepKeepsInvariants : Inv scenarioCWide ∧ MemoriesWf scenarioCWide ∧ MemoriesWithin scenarioCWide ∧
    ∃ t, step scenarioCWide = .next t ∧ t.olen = 7 :=
  ⟨scenarioCWide_inv, by unfold MemoriesWf; decide, by unfold MemoriesWithin; decide, _, rfl, by decide⟩
theorem witness_HostRegisterReads :
    (withMove scenarioC (.readReg 12)).moves = [.readReg 12] ∧ (withMove scenarioC (.readReg 12)).busy = false ∧
    after (step (withMove scenarioC (.readReg 12))) State.answer = some (some (.word 16)) ∧
    after (step (withMove scenarioC (.readReg 13))) State.answer = some (some (.word 0)) ∧
    after (step (withMove scenarioC (.readReg 0))) State.answer = some (some (.word 0)) := by decide
theorem witness_HostMemoryReads :
    (withMove scenarioC (.readEntry .ovf 1)).moves = [.readEntry .ovf 1] ∧
    after (step (withMove scenarioC (.readEntry .ovf 1))) State.answer = some (some (.word 2048)) ∧
    after (step (withMove scenarioC (.readEntry .ovf 2))) State.answer = some (some (.word 0)) ∧
    after (step (withMove scenarioC (.readEntry .ibuf 16))) State.answer = some (some (.element 0)) := by decide
theorem witness_ReadOnlyRegisterWriteIgnored : (withMove scenarioC (.writeReg 13 1)).busy = false ∧
    (withMove scenarioC (.writeReg 13 1)).moves = [.writeReg 13 1] ∧ (13 : PortIndex) ≠ 0 := by decide
theorem witness_IbufWriteThenRead : (withMove scenarioC (.writeIbuf 15 (-1))).busy = false ∧
    (withMove scenarioC (.writeIbuf 15 (-1))).moves = [.writeIbuf 15 (-1)] ∧
    (15 : PortIndex).toNat < scenarioC.nmax.toNat ∧ ¬ (16 : PortIndex).toNat < scenarioC.nmax.toNat := by decide
theorem witness_BitLengthIsLeast : 7 < 2 ^ 3 ∧ bitLength 7 ≤ 3 ∧ 4294967295 < 2 ^ 32 := by decide
theorem witness_SpanningNeedsNoMoreWords : 1 ≤ 1 ∧ 1 ≤ 32 ∧ 32 ≤ 32 ∧ wcSpan 3 32 = 3 := by decide
theorem witness_WordIndexInsideBuffer : 1 ≤ 31 ∧ 31 ≤ 32 ∧ 1 < 2 ∧ crosses (bitOffset (spanCursor 1 31)) 31 = true := by
  decide
theorem witness_DispatchIsStrict : (6 : Word).toNat < (7 : Word).toNat ∧ (7 : Word).toNat ≤ (7 : Word).toNat ∧
    diverts 6 7 = false ∧ diverts 7 7 = true := by decide

end Sys2Proof.Tests
end

section
/-! ## Widths and word counts (R18, R101, R103, R104, R109) -/

namespace Sys2Proof.Machine

/-- R101. -/
theorem lt_two_pow_iff_bitLength_le (x b : Nat) : x < 2 ^ b ↔ bitLength x ≤ b := by
  unfold bitLength
  split
  · next h => simp [h]
  · next h => rw [← Nat.log2_lt h, Nat.lt_iff_add_one_le]

/-- R101: the width of a maximum is the least one, at least 1, that holds it. -/
theorem widthOf_le_iff (mx b : Nat) (hb : 1 ≤ b) : widthOf mx ≤ b ↔ mx < 2 ^ b := by
  unfold widthOf
  split
  · next h => simp [h, hb]
  · exact (lt_two_pow_iff_bitLength_le mx b).symm

theorem one_le_widthOf (mx : Nat) : 1 ≤ widthOf mx := by
  unfold widthOf bitLength
  split <;> simp [*]

theorem lt_two_pow_widthOf (mx : Nat) : mx < 2 ^ widthOf mx :=
  (widthOf_le_iff mx _ (one_le_widthOf mx)).1 le_rfl

/-- R101: the width of a maximum that occurs among the values, or is 0, is their least width. -/
theorem leastWidth_widthOf (v : Nat → Nat) (c mx : Nat) (upper : ∀ j < c, v j ≤ mx)
    (attained : mx = 0 ∨ ∃ j < c, mx = v j) : LeastWidth v c (widthOf mx) := by
  refine ⟨one_le_widthOf mx, fun j hj => (upper j hj).trans_lt (lt_two_pow_widthOf mx), fun b hb hv => ?_⟩
  rw [widthOf_le_iff mx b hb]
  rcases attained with h | ⟨j, hj, h⟩
  · simp [h]
  · exact h ▸ hv j hj

theorem LeastWidth.unique {v : Nat → Nat} {c k k' : Nat} (h : LeastWidth v c k) (h' : LeastWidth v c k') :
    k = k' := by
  obtain ⟨one, holds, least⟩ := h
  obtain ⟨one', holds', least'⟩ := h'
  exact le_antisymm (least k' one' holds') (least' k one holds)

theorem LeastWidth.congr {v v' : Nat → Nat} {c k : Nat} (h : LeastWidth v c k) (same : ∀ j < c, v' j = v j) :
    LeastWidth v' c k :=
  ⟨h.1, fun j hj => by rw [same j hj]; exact h.2.1 j hj,
    fun b hb hv => h.2.2 b hb fun j hj => by rw [← same j hj]; exact hv j hj⟩

/-- A width of 32-bit values is at most 32 (R18). -/
theorem LeastWidth.le_32 {f : Nat → Word} {c k : Nat} (h : LeastWidth (fun j => (f j).toNat) c k) : k ≤ 32 :=
  h.2.2 32 (by decide) fun j _ => (f j).isLt

/-- R6: an index is below a rounded-up quotient when its product with the divisor is below the dividend. -/
theorem lt_ceilDiv_iff (i a b : Nat) (hb : 1 ≤ b) : i < ceilDiv a b ↔ i * b < a := by
  unfold ceilDiv
  rw [Nat.lt_iff_add_one_le, Nat.le_div_iff_mul_le hb, Nat.add_mul]
  omega

theorem one_le_epw {k : Nat} (h1 : 1 ≤ k) (h32 : k ≤ 32) : 1 ≤ epw k := (Nat.le_div_iff_mul_le h1).2 (by omega)

theorem epw_mul_le (k : Nat) : epw k * k ≤ 32 := Nat.div_mul_le_self 32 k

/-- R104: a bit address below n * k is in one of the words of the spanning buffer. -/
theorem div_32_lt_wcSpan {p n k : Nat} (h : p < n * k) : p / 32 < wcSpan n k := by
  unfold wcSpan
  rw [lt_ceilDiv_iff _ _ _ (by decide)]
  omega

theorem wcSpan_le {n k : Nat} (h32 : k ≤ 32) : wcSpan n k ≤ n := by
  have : n * k ≤ n * 32 := Nat.mul_le_mul_left n h32
  unfold wcSpan ceilDiv
  omega

/-- R109: the word of an element is in the buffer of the non-spanning layout. -/
theorem nonspanIndex_lt_wcNonspan {i n k : Nat} (h1 : 1 ≤ k) (h32 : k ≤ 32) (hi : i < n) :
    nonspanIndex i k < wcNonspan n k := by
  unfold nonspanIndex wcNonspan
  rw [lt_ceilDiv_iff _ _ _ (one_le_epw h1 h32)]
  exact (Nat.div_mul_le_self i (epw k)).trans_lt hi

theorem wcNonspan_le {n k : Nat} (h1 : 1 ≤ k) (h32 : k ≤ 32) : wcNonspan n k ≤ n := by
  have he := one_le_epw h1 h32
  by_contra h
  have := (lt_ceilDiv_iff n n (epw k) he).1 (by unfold wcNonspan at h; omega)
  have : n * 1 ≤ n * epw k := Nat.mul_le_mul_left n he
  omega

end Sys2Proof.Machine
end
section
/-! ## Bits of a word buffer (R102, R105, R120, R138, R139, R151) -/

namespace Sys2Proof.Machine

theorem getLsbD_mask (k b : Nat) : (mask k).getLsbD b = (decide (b < 32) && decide (b < k)) := by
  simp [mask, BitVec.getLsbD_ofNat, Nat.testBit_two_pow_sub_one]

/-- Masking by k keeps the low k bits. -/
theorem getLsbD_and_mask (v : Word) (k b : Nat) : (v &&& mask k).getLsbD b = (decide (b < k) && v.getLsbD b) := by
  rw [BitVec.getLsbD_and, getLsbD_mask]
  by_cases hb : b < 32
  · simp [hb, Bool.and_comm]
  · simp [BitVec.getLsbD_of_ge v b (by omega)]

/-- A value below 2^k is its own low k bits. -/
theorem and_mask_of_lt {v : Word} {k : Nat} (h : v.toNat < 2 ^ k) : v &&& mask k = v := by
  apply BitVec.eq_of_getLsbD_eq
  intro b _
  rw [getLsbD_and_mask]
  by_cases hb : b < k
  · simp [hb]
  · have : v.getLsbD b = false :=
      Nat.testBit_lt_two_pow (h.trans_le (Nat.pow_le_pow_right (by decide) (by omega)))
    simp [this]

/-- R44: the bits after an OR into one word. -/
theorem getLsbD_orStore (m : Memory 32) (i a b : Nat) (x : Word) :
    (readWbuf (Memory.store m i (readWbuf m i ||| x)) a).getLsbD b =
      ((readWbuf m a).getLsbD b || (decide (a = i) && x.getLsbD b)) := by
  rw [readWbuf_store]
  by_cases h : a = i <;> simp [h]

/-- Bit b of word a of a spanning buffer that holds c fields of k bits (R105, R139). -/
def streamBit (f : Nat → Word) (c k a b : Nat) : Bool :=
  decide ((32 * a + b) / k < c) && (f ((32 * a + b) / k)).getLsbD ((32 * a + b) % k)

/-- Bit b of word a of a non-spanning buffer that holds c lanes of k bits (R120). -/
def laneBit (f : Nat → Word) (c k a b : Nat) : Bool :=
  decide (b < epw k * k ∧ a * epw k + b / k < c) && (f (a * epw k + b / k)).getLsbD (b % k)

theorem streamBit_congr {f f' : Nat → Word} {c : Nat} (h : ∀ j < c, f' j = f j) (k a b : Nat) :
    streamBit f' c k a b = streamBit f c k a b := by
  unfold streamBit
  by_cases hc : (32 * a + b) / k < c
  · rw [h _ hc]
  · simp [hc]

theorem laneBit_congr {f f' : Nat → Word} {c : Nat} (h : ∀ j < c, f' j = f j) (k a b : Nat) :
    laneBit f' c k a b = laneBit f c k a b := by
  unfold laneBit
  by_cases hc : a * epw k + b / k < c
  · rw [h _ hc]
  · simp [hc]

/-- The first wc words of a memory have the given bits. -/
def HoldsBits (bit : Nat → Nat → Bool) (wc : Nat) (m : Memory 32) : Prop :=
  ∀ a < wc, ∀ b < 32, (readWbuf m a).getLsbD b = bit a b

/-- Two memories with the same bits in the first wc words have the same words there. -/
theorem HoldsBits.readWbuf_eq {bit : Nat → Nat → Bool} {wc : Nat} {m m' : Memory 32} (h : HoldsBits bit wc m)
    (h' : HoldsBits bit wc m') {a : Nat} (ha : a < wc) : readWbuf m' a = readWbuf m a :=
  BitVec.eq_of_getLsbD_eq fun b hb => (h' a ha b hb).trans (h a ha b hb).symm

/-- R138: the bits the pack step adds, in the field's first word and, where it crosses, in its second. -/
theorem packSpan_getLsbD_words (v : Word) (k wc : Nat) (s : State) (a b : Nat) :
    (readWbuf (packSpan v k wc s).wbuf a).getLsbD b =
      ((readWbuf s.wbuf a).getLsbD b ||
        (decide (a = s.seq.cur.toNat / 32) && ((v &&& mask k) <<< (s.seq.cur.toNat % 32)).getLsbD b) ||
        (decide ((32 < s.seq.cur.toNat % 32 + k ∧ s.seq.cur.toNat / 32 + 1 < wc) ∧ a = s.seq.cur.toNat / 32 + 1) &&
          ((v &&& mask k) >>> (32 - s.seq.cur.toNat % 32)).getLsbD b)) := by
  rw [packSpan_wbuf]
  dsimp only
  split
  · next cross => simp only [getLsbD_orStore, cross, and_self, true_and]
  · next cross => simp only [getLsbD_orStore, cross, false_and, decide_false, Bool.false_and, Bool.or_false]

/-- R138: the pack step ORs the low k bits of v into the k bits from the cursor on. -/
theorem packSpan_getLsbD (v : Word) (k wc : Nat) (s : State) (hk : k ≤ 32) {a b : Nat} (ha : a < wc) (hb : b < 32) :
    (readWbuf (packSpan v k wc s).wbuf a).getLsbD b =
      ((readWbuf s.wbuf a).getLsbD b ||
        (decide (s.seq.cur.toNat ≤ 32 * a + b ∧ 32 * a + b < s.seq.cur.toNat + k) &&
          v.getLsbD (32 * a + b - s.seq.cur.toNat))) := by
  rw [packSpan_getLsbD_words, BitVec.getLsbD_shiftLeft, BitVec.getLsbD_ushiftRight, getLsbD_and_mask, getLsbD_and_mask,
    Bool.or_assoc]
  congr 1
  generalize s.seq.cur.toNat = c
  have quotient := Nat.div_add_mod c 32
  have offset := Nat.mod_lt c (show 32 > 0 by decide)
  generalize c / 32 = i at quotient ⊢
  generalize c % 32 = o at quotient offset ⊢
  by_cases first : a = i
  · have position : 32 * a + b - c = b - o := by omega
    have inField : decide (c ≤ 32 * a + b ∧ 32 * a + b < c + k) = (!decide (b < o) && decide (b - o < k)) := by
      rw [Bool.eq_iff_iff]; simp; omega
    rw [position, inField]
    simp [first, hb, Bool.and_assoc]
  · by_cases second : a = i + 1
    · have position : 32 * a + b - c = 32 - o + b := by omega
      have inField : decide (c ≤ 32 * a + b ∧ 32 * a + b < c + k) =
          (decide ((32 < o + k ∧ i + 1 < wc) ∧ a = i + 1) && decide (32 - o + b < k)) := by
        rw [Bool.eq_iff_iff]; simp; omega
      rw [position, inField]
      simp [first, Bool.and_assoc]
    · have outside : ¬ (c ≤ 32 * a + b ∧ 32 * a + b < c + k) := by omega
      simp [first, second, outside]

/-- R139: after a pack step at bit address c * k the buffer holds one more field. -/
theorem HoldsBits.packSpan {f : Nat → Word} {k c wc : Nat} {s : State} (hk : 1 ≤ k) (hk32 : k ≤ 32)
    (h : HoldsBits (streamBit f c k) wc s.wbuf) (cur : s.seq.cur.toNat = c * k) :
    HoldsBits (streamBit f (c + 1) k) wc (packSpan (f c) k wc s).wbuf := by
  intro a ha b hb
  rw [packSpan_getLsbD _ _ _ _ hk32 ha hb, h a ha b hb, cur]
  unfold streamBit
  have owner : ∀ i, (32 * a + b) / k = i ↔ i * k ≤ 32 * a + b ∧ 32 * a + b < i * k + k := fun i => by
    rw [Nat.div_eq_iff hk]; omega
  have parts := Nat.div_add_mod (32 * a + b) k
  generalize 32 * a + b = p at owner parts ⊢
  by_cases here : p / k = c
  · have position : p - c * k = p % k := by rw [here, Nat.mul_comm] at parts; omega
    simp [here, (owner c).1 here, position]
  · have other : ¬ (c * k ≤ p ∧ p < c * k + k) := fun g => here ((owner c).2 g)
    have : p / k < c + 1 ↔ p / k < c := by omega
    simp [this, other]

/-- R121: after a lane is ORed in, the buffer holds one more lane. -/
theorem HoldsBits.packNonspan {f : Nat → Word} {k c wc : Nat} {m : Memory 32} (hk : 1 ≤ k) (hk32 : k ≤ 32)
    (h : HoldsBits (laneBit f c k) wc m) (fits : (f c).toNat < 2 ^ k) :
    HoldsBits (laneBit f (c + 1) k) wc
      (Memory.store m (nonspanIndex c k) (readWbuf m (nonspanIndex c k) ||| f c <<< nonspanOffset c k)) := by
  intro a ha b hb
  rw [getLsbD_orStore, h a ha b hb, BitVec.getLsbD_shiftLeft, ← and_mask_of_lt fits, getLsbD_and_mask]
  unfold laneBit nonspanIndex nonspanOffset
  have he : 1 ≤ epw k := one_le_epw hk hk32
  generalize epw k = e at he ⊢
  have inLane : b / k = c % e ↔ c % e * k ≤ b ∧ b - c % e * k < k := by rw [Nat.div_eq_iff hk]; omega
  have inWord : b < e * k ↔ b / k < e := (Nat.div_lt_iff_lt_mul hk).symm
  have lane := Nat.mod_lt c he
  have parts := Nat.div_add_mod' b k
  have element := Nat.div_add_mod' c e
  by_cases here : a = c / e ∧ b / k = c % e
  · obtain ⟨word, slot⟩ := here
    have position : b - c % e * k = b % k := by rw [← slot]; omega
    have inside := inLane.1 slot
    have whole : b < e * k := inWord.2 (slot ▸ lane)
    have same : a * e + b / k = c := by rw [word, slot]; exact element
    have low : ¬ b < c % e * k := by omega
    rw [same, position]
    simp [word, whole, hb, Nat.mod_lt b hk, low]
  · have other : (decide (a = c / e) && (decide (b < 32) && !decide (b < c % e * k) &&
        (decide (b - c % e * k < k) && (f c).getLsbD (b - c % e * k)))) = false := by
      have : a = c / e → c % e * k ≤ b → ¬ b - c % e * k < k := fun g h h' => here ⟨g, inLane.2 ⟨h, h'⟩⟩
      grind
    have old : decide (b < e * k ∧ a * e + b / k < c + 1) = decide (b < e * k ∧ a * e + b / k < c) := by
      refine decide_eq_decide.2 (and_congr_right fun hb' => ?_)
      have : a * e + b / k ≠ c := fun g => by
        have g' : b / k + e * a = c := by rw [Nat.mul_comm, Nat.add_comm]; exact g
        obtain ⟨word, slot⟩ := (Nat.div_mod_unique he).2 ⟨g', inWord.1 hb'⟩
        exact here ⟨word.symm, slot.symm⟩
      omega
    rw [other, old, Bool.or_false]

/-- R151: bit b of element i is bit i * k + b of the stream. -/
theorem getSpan_getLsbD (m : Memory 32) (i k b : Nat) (hk : k ≤ 32) :
    (getSpan m i k).getLsbD b = (decide (b < k) && (readWbuf m ((i * k + b) / 32)).getLsbD ((i * k + b) % 32)) := by
  unfold getSpan arrayIndex bitOffset spanCursor remBits availBits
  rw [getLsbD_and_mask]
  by_cases hb : b < k
  · have quotient := Nat.div_add_mod (i * k) 32
    have offset := Nat.mod_lt (i * k) (show 32 > 0 by decide)
    generalize i * k / 32 = w at quotient ⊢
    generalize i * k % 32 = o at quotient offset ⊢
    rw [← quotient]
    by_cases first : o + b < 32
    · have word : (32 * w + o + b) / 32 = w := by omega
      have bit : (32 * w + o + b) % 32 = o + b := by omega
      rw [word, bit]
      split
      · have low : b < 32 - o := by omega
        rw [BitVec.getLsbD_or, BitVec.getLsbD_ushiftRight, BitVec.getLsbD_shiftLeft]
        simp [low]
      · rw [BitVec.getLsbD_ushiftRight]
    · have word : (32 * w + o + b) / 32 = w + 1 := by omega
      have bit : (32 * w + o + b) % 32 = b - (32 - o) := by omega
      have cross : 32 - o < k := by omega
      have low : ¬ b < 32 - o := by omega
      have inRest : b - (32 - o) < k - (32 - o) := by omega
      have past : (readWbuf m w).getLsbD (o + b) = false := BitVec.getLsbD_of_ge _ _ (by omega)
      rw [word, bit, if_pos cross, BitVec.getLsbD_or, BitVec.getLsbD_ushiftRight, past, BitVec.getLsbD_shiftLeft,
        getLsbD_and_mask]
      simp [low, inRest, show b < 32 by omega]
  · simp [hb]

/-- R41, R151: the field read is the k bits of the bitstream. -/
theorem streamField_eq_getSpan (m : Memory 32) (i k : Nat) (hk : k ≤ 32) :
    streamField m i k = (getSpan m i k).toNat := by
  refine Nat.eq_of_testBit_eq fun b => ?_
  rw [BitVec.testBit_toNat, getSpan_getLsbD m i k b hk]
  unfold streamField
  rw [Nat.testBit_mod_two_pow, Nat.testBit_div_two_pow, Nat.add_comm (readWbuf _ _).toNat, Nat.mul_comm _ (2 ^ 32),
    Nat.testBit_two_pow_mul_add _ (readWbuf m (i * k / 32)).isLt]
  by_cases first : b + i * k % 32 < 32
  · have word : (i * k + b) / 32 = i * k / 32 := by omega
    have bit : (i * k + b) % 32 = b + i * k % 32 := by omega
    rw [if_pos first, word, bit, BitVec.testBit_toNat]
  · by_cases hb : b < k
    · have word : (i * k + b) / 32 = i * k / 32 + 1 := by omega
      have bit : (i * k + b) % 32 = b + i * k % 32 - 32 := by omega
      rw [if_neg first, word, bit, BitVec.testBit_toNat]
    · simp [hb]

/-- R136, R151: reading a field of a spanning buffer gives it back. -/
theorem HoldsBits.getSpan {f : Nat → Word} {c k i : Nat} {m : Memory 32} (hk : 1 ≤ k) (hk32 : k ≤ 32)
    (h : HoldsBits (streamBit f c k) (wcSpan c k) m) (hi : i < c) (fits : (f i).toNat < 2 ^ k) :
    getSpan m i k = f i := by
  rw [← and_mask_of_lt fits]
  apply BitVec.eq_of_getLsbD_eq
  intro b _
  rw [getSpan_getLsbD m i k b hk32, getLsbD_and_mask]
  by_cases hb : b < k
  · have inside : i * k + b < c * k := by have := Nat.mul_le_mul_right k hi; rw [Nat.succ_mul] at this; omega
    obtain ⟨field, bit⟩ := (Nat.div_mod_unique (a := i * k + b) (d := i) (c := b) hk).2 ⟨by ring, hb⟩
    rw [h _ (div_32_lt_wcSpan inside) _ (Nat.mod_lt _ (by decide))]
    unfold streamBit
    rw [Nat.div_add_mod, field, bit]
    simp [hi]
  · simp [hb]

/-- R121, R123: reading a lane of a non-spanning buffer gives it back. -/
theorem HoldsBits.getNonspan {f : Nat → Word} {c k i : Nat} {m : Memory 32} (hk : 1 ≤ k) (hk32 : k ≤ 32)
    (h : HoldsBits (laneBit f c k) (wcNonspan c k) m) (hi : i < c) (fits : (f i).toNat < 2 ^ k) :
    getNonspan m i k = f i := by
  rw [← and_mask_of_lt fits]
  apply BitVec.eq_of_getLsbD_eq
  intro b _
  unfold Machine.getNonspan nonspanOffset
  rw [getLsbD_and_mask, getLsbD_and_mask, BitVec.getLsbD_ushiftRight]
  by_cases hb : b < k
  · have lane : i % epw k < epw k := Nat.mod_lt _ (one_le_epw hk hk32)
    have whole : i % epw k * k + b < epw k * k := by
      have := Nat.mul_le_mul_right k lane; rw [Nat.succ_mul] at this; omega
    obtain ⟨slot, bit⟩ := (Nat.div_mod_unique (a := i % epw k * k + b) (d := i % epw k) (c := b) hk).2 ⟨by ring, hb⟩
    rw [h _ (nonspanIndex_lt_wcNonspan hk hk32 hi) _ (whole.trans_le (epw_mul_le k))]
    unfold laneBit nonspanIndex
    rw [slot, bit, Nat.div_add_mod']
    simp [hi, whole]
  · simp [hb]

end Sys2Proof.Machine
end
section
/-! ## Counting the diverted values and the side array (R167, R168, R176) -/

namespace Sys2Proof.Machine

@[simp] theorem countBelow_false (c : Nat) : countBelow (fun _ => false) c = 0 := by
  induction c with
  | zero => rfl
  | succ c ih => simp [countBelow, ih]

theorem countBelow_le (test : Nat → Bool) (c : Nat) : countBelow test c ≤ c := by
  induction c with
  | zero => exact le_rfl
  | succ c ih => have := (test c).toNat_le; simp only [countBelow]; omega

theorem countBelow_congr {test test' : Nat → Bool} {c : Nat} (h : ∀ j < c, test' j = test j) :
    countBelow test' c = countBelow test c := by
  induction c with
  | zero => rfl
  | succ c ih => simp only [countBelow, ih fun j hj => h j (Nat.lt_succ_of_lt hj), h c (Nat.lt_succ_self c)]

theorem countBelow_mono (test : Nat → Bool) {i c : Nat} (h : i ≤ c) : countBelow test i ≤ countBelow test c := by
  induction c, h using Nat.le_induction with
  | base => exact le_rfl
  | succ c _ ih => simp only [countBelow]; omega

/-- Each index that passes the test has a rank below the count. -/
theorem countBelow_lt (test : Nat → Bool) {i c : Nat} (h : i < c) (pass : test i = true) :
    countBelow test i < countBelow test c := by
  have : countBelow test (i + 1) ≤ countBelow test c := countBelow_mono test h
  simp only [countBelow, pass, Bool.toNat_true] at this
  omega

/-- Every rank below the count belongs to an index that passes the test. -/
theorem exists_of_lt_countBelow (test : Nat → Bool) {p c : Nat} (h : p < countBelow test c) :
    ∃ i < c, test i = true ∧ countBelow test i = p := by
  induction c with
  | zero => exact absurd h (Nat.not_lt_zero p)
  | succ c ih =>
    by_cases old : p < countBelow test c
    · obtain ⟨i, hi, found⟩ := ih old
      exact ⟨i, Nat.lt_succ_of_lt hi, found⟩
    · have top := (test c).toNat_le
      simp only [countBelow] at h
      refine ⟨c, Nat.lt_succ_self c, ?_, by omega⟩
      cases hc : test c with
      | true => rfl
      | false => rw [hc] at h; simp at h; omega

/-- The side array `m` holds, each at its rank, the values v i that a test picks among the first c, and beyond them
what `m₀` holds. -/
structure SideHolds (test : Nat → Bool) (v : Nat → Word) (c : Nat) (m₀ m : Memory 32) : Prop where
  entries : ∀ i < c, test i = true → readOvf m (countBelow test i) = v i
  outside : ∀ p, countBelow test c ≤ p → Memory.lookup m p = Memory.lookup m₀ p

theorem SideHolds.none (v : Nat → Word) (c : Nat) (m : Memory 32) : SideHolds (fun _ => false) v c m m :=
  ⟨fun _ _ h => by simp at h, fun _ _ => rfl⟩

theorem SideHolds.empty (test : Nat → Bool) (v : Nat → Word) (m : Memory 32) : SideHolds test v 0 m m :=
  ⟨fun _ h => absurd h (Nat.not_lt_zero _), fun _ _ => rfl⟩

/-- R168: a push appends the next diverted value. -/
theorem SideHolds.push {test : Nat → Bool} {v : Nat → Word} {c : Nat} {m₀ m : Memory 32}
    (h : SideHolds test v c m₀ m) (pass : test c = true) :
    SideHolds test v (c + 1) m₀ (Memory.store m (countBelow test c) (v c)) := by
  refine ⟨fun i hi hp => ?_, fun p hp => ?_⟩
  · rw [readOvf_store]
    rcases Nat.lt_succ_iff_lt_or_eq.1 hi with old | rfl
    · rw [if_neg (countBelow_lt test old hp).ne]
      exact h.entries i old hp
    · rw [if_pos rfl]
  · simp only [countBelow, pass, Bool.toNat_true] at hp
    rw [Memory.lookup_store_other _ _ (by omega)]
    exact h.outside p (by omega)

theorem SideHolds.skip {test : Nat → Bool} {v : Nat → Word} {c : Nat} {m₀ m : Memory 32}
    (h : SideHolds test v c m₀ m) (fail : test c = false) : SideHolds test v (c + 1) m₀ m := by
  refine ⟨fun i hi hp => ?_, fun p hp => h.outside p ?_⟩
  · rcases Nat.lt_succ_iff_lt_or_eq.1 hi with old | rfl
    · exact h.entries i old hp
    · rw [fail] at hp; cases hp
  · simpa [countBelow, fail] using hp

/-- Two side arrays of the same values read the same below the count. -/
theorem SideHolds.readOvf_eq {test : Nat → Bool} {v : Nat → Word} {c : Nat} {m₀ m m₀' m' : Memory 32}
    (h : SideHolds test v c m₀ m) (h' : SideHolds test v c m₀' m') {p : Nat} (hp : p < countBelow test c) :
    readOvf m' p = readOvf m p := by
  obtain ⟨i, hi, pass, rfl⟩ := exists_of_lt_countBelow test hp
  rw [h.entries i hi pass, h'.entries i hi pass]

/-! ## Frames of the loops (R7, R29) -/

/-- `t` is `s` but for the sequencer registers. -/
def OnlySeq (s t : State) : Prop := t = { s with seq := t.seq }

theorem OnlySeq.refl (s : State) : OnlySeq s s := rfl

theorem OnlySeq.trans {s t u : State} (h : OnlySeq s t) (g : OnlySeq t u) : OnlySeq s u := by
  unfold OnlySeq at *; rw [h] at g; exact g

theorem OnlySeq.wbuf {s t : State} (h : OnlySeq s t) : t.wbuf = s.wbuf := by unfold OnlySeq at h; rw [h]

theorem OnlySeq.ovf {s t : State} (h : OnlySeq s t) : t.ovf = s.ovf := by unfold OnlySeq at h; rw [h]

/-- `t` is `s` but for WBUF, OVF and the sequencer registers: the frame of the pack loops. -/
def OnlyPack (s t : State) : Prop := t = { s with wbuf := t.wbuf, ovf := t.ovf, seq := t.seq }

theorem OnlyPack.trans {s t u : State} (h : OnlyPack s t) (g : OnlyPack t u) : OnlyPack s u := by
  unfold OnlyPack at *; rw [h] at g; exact g

theorem OnlySeq.onlyPack {s t : State} (h : OnlySeq s t) : OnlyPack s t := by
  unfold OnlySeq at h; unfold OnlyPack; rw [h]

theorem OnlyPack.readIbuf {s t : State} (h : OnlyPack s t) (j : Nat) : readIbuf t j = readIbuf s j := by
  unfold OnlyPack at h; rw [h]; rfl

theorem OnlyPack.sentinel {s t : State} (h : OnlyPack s t) : t.sentinel = s.sentinel := by
  unfold OnlyPack at h; rw [h]

theorem OnlyPack.obuf {s t : State} (h : OnlyPack s t) : t.obuf = s.obuf := by unfold OnlyPack at h; rw [h]

theorem clearWords_onlyPack (wc : Nat) (s : State) : OnlyPack s (clearWords wc s) := by
  unfold OnlyPack; rw [clearWords_eq]

theorem packSpan_onlyPack (v : Word) (k wc : Nat) (s : State) : OnlyPack s (packSpan v k wc s) := by
  unfold OnlyPack; rw [packSpan_eq]

/-- A loop over elements keeps what its body keeps, J set to the index. -/
theorem forElements_induct (P : Nat → State → Prop) (body : Nat → State → State) (count : Nat) (s : State)
    (h0 : P 0 s) (hs : ∀ j t, j < count → P j t → P (j + 1) (body j (setJ j t))) :
    P count (forElements body count s) :=
  forEach_induct P _ count s h0 hs

theorem forElements_onlySeq (body : Nat → State → State) (hb : ∀ j t, OnlySeq t (body j t)) (count : Nat)
    (s : State) : OnlySeq s (forElements body count s) :=
  forElements_induct (fun _ t => OnlySeq s t) body count s (.refl s)
    fun j t _ h => (h.trans (t := t) (u := setJ j t) rfl).trans (hb j _)

/-- R121, R136: the scan touches sequencer registers only. -/
theorem scanMax_onlySeq (n : Nat) (s : State) : OnlySeq s (scanMax n s) :=
  OnlySeq.trans (t := setMaxv 0 s) rfl (forElements_onlySeq _ (fun _ _ => by rw [raiseMaxv_eq]; rfl) n _)

theorem scanFields_onlySeq (n : Nat) (s : State) : OnlySeq s (scanFields n s) :=
  OnlySeq.trans (t := setMaxv (synthetic s.sentinel) s) rfl
    (forElements_onlySeq _ (fun _ _ => by rw [raiseMaxv_eq]; rfl) n _)

/-! ## What COMPRESS packs, by layout (R121, R136, R170) -/

/-- The value of IBUF[j] that the body of COMPRESS sees. -/
def inputWord (s : State) (j : Nat) : Word := elementWord (readIbuf s j)

/-- R167: whether COMPRESS diverts element j to the side array. -/
def diverted (s : State) (j : Nat) : Bool :=
  match s.mode with
  | .nonspan | .span => false
  | .overflow => diverts (inputWord s j) s.sentinel

/-- R169, R170: field j of the main stream of `COMPRESS n`. -/
def mainField (s : State) (n j : Nat) : Word :=
  match s.mode with
  | .nonspan | .span => inputWord s j
  | .overflow => if j < n then dispatchField (inputWord s j) s.sentinel else synthetic s.sentinel

/-- R171: how many fields n elements take, the synthetic one among them. -/
def fieldCount (mode : Mode) (n : Nat) : Nat :=
  match mode with
  | .nonspan | .span => n
  | .overflow => n + 1

/-- R103, R104: the words of c fields of k bits. -/
def wordCount (mode : Mode) (c k : Nat) : Nat :=
  match mode with
  | .nonspan => wcNonspan c k
  | .span | .overflow => wcSpan c k

/-- R120, R139: bit b of word a of a buffer of c fields of k bits. -/
def packedBit (mode : Mode) (f : Nat → Word) (c k a b : Nat) : Bool :=
  match mode with
  | .nonspan => laneBit f c k a b
  | .span | .overflow => streamBit f c k a b

theorem diverted_of_ne {s : State} (mode : s.mode ≠ .overflow) : diverted s = fun _ => false := by
  funext j
  unfold diverted
  split
  · rfl
  · rfl
  · next h => exact absurd h mode

theorem diverted_of_overflow {s : State} (mode : s.mode = .overflow) (j : Nat) :
    diverted s j = diverts (inputWord s j) s.sentinel := by
  unfold diverted; rw [mode]

theorem mainField_of_ne {s : State} (mode : s.mode ≠ .overflow) (n : Nat) : mainField s n = inputWord s := by
  funext j
  unfold mainField
  split
  · rfl
  · rfl
  · next h => exact absurd h mode

theorem fieldCount_of_ne {mode : Mode} (plain : mode ≠ .overflow) (n : Nat) : fieldCount mode n = n := by
  cases mode with
  | nonspan | span => rfl
  | overflow => contradiction

theorem mainField_of_lt {s : State} (mode : s.mode = .overflow) {n j : Nat} (hj : j < n) :
    mainField s n j = dispatchField (inputWord s j) s.sentinel := by
  unfold mainField; rw [mode]; exact if_pos hj

theorem mainField_last {s : State} (mode : s.mode = .overflow) (n : Nat) :
    mainField s n n = synthetic s.sentinel := by
  unfold mainField; rw [mode]; exact if_neg (lt_irrefl n)

@[simp] theorem packedBit_nonspan (f : Nat → Word) (c k : Nat) : packedBit .nonspan f c k = laneBit f c k := rfl
@[simp] theorem packedBit_span (f : Nat → Word) (c k : Nat) : packedBit .span f c k = streamBit f c k := rfl
@[simp] theorem packedBit_overflow (f : Nat → Word) (c k : Nat) : packedBit .overflow f c k = streamBit f c k := rfl

/-- The codec state of `t` holds the first n inputs of `s`, packed in the layout of `s`, and outside its live ranges the
words and the side array of `t` are those of `s`, and so is OBUF. -/
structure Packed (s : State) (n : Nat) (t : State) : Prop where
  n_eq : t.n.toNat = n
  width : LeastWidth (fun j => (mainField s n j).toNat) (fieldCount s.mode n) t.k.toNat
  wc_eq : t.wc.toNat = wordCount s.mode (fieldCount s.mode n) t.k.toNat
  oc_eq : t.oc.toNat = countBelow (diverted s) n
  bits : HoldsBits (packedBit s.mode (mainField s n) (fieldCount s.mode n) t.k.toNat) t.wc.toNat t.wbuf
  side : SideHolds (diverted s) (inputWord s) n s.ovf t.ovf
  outside : ∀ a, t.wc.toNat ≤ a → Memory.lookup t.wbuf a = Memory.lookup s.wbuf a
  obuf : t.obuf = s.obuf

theorem wordCount_le (mode : Mode) {c k : Nat} (h1 : 1 ≤ k) (h32 : k ≤ 32) : wordCount mode c k ≤ c := by
  cases mode with
  | nonspan => exact wcNonspan_le h1 h32
  | span | overflow => exact wcSpan_le h32

theorem fieldCount_le (mode : Mode) (n : Nat) : fieldCount mode n ≤ n + 1 := by
  cases mode <;> simp [fieldCount]

/-! ## The pack loops -/

/-- `t` is the working state of a pack loop started from `s`: beside working state nothing has changed, the first wc
words hold the given bits, and the other words are those of `s`. -/
structure Packing (s : State) (bit : Nat → Nat → Bool) (wc : Nat) (t : State) : Prop where
  frame : OnlyPack s t
  bits : HoldsBits bit wc t.wbuf
  outside : ∀ a, wc ≤ a → Memory.lookup t.wbuf a = Memory.lookup s.wbuf a

/-- R18 to R20: the counts of n < 2^24 elements fit their registers, so that the codec registers hold them exactly. -/
theorem Packing.packed {s w : State} {n k : Nat} (hn : n < 2 ^ 24)
    (width : LeastWidth (fun j => (mainField s n j).toNat) (fieldCount s.mode n) k)
    (packing : Packing s (packedBit s.mode (mainField s n) (fieldCount s.mode n) k)
      (wordCount s.mode (fieldCount s.mode n) k) w)
    (side : SideHolds (diverted s) (inputWord s) n s.ovf w.ovf) :
    Packed s n (setCodec n k (wordCount s.mode (fieldCount s.mode n) k) (countBelow (diverted s) n) w) := by
  have hk : (BitVec.ofNat 6 k).toNat = k := by
    rw [BitVec.toNat_ofNat, Nat.mod_eq_of_lt (by have := width.le_32; omega)]
  have hwc : (BitVec.ofNat 25 (wordCount s.mode (fieldCount s.mode n) k)).toNat =
      wordCount s.mode (fieldCount s.mode n) k := by
    have := wordCount_le s.mode (c := fieldCount s.mode n) width.1 width.le_32
    have := fieldCount_le s.mode n
    rw [BitVec.toNat_ofNat, Nat.mod_eq_of_lt (by omega)]
  have hoc : (BitVec.ofNat 24 (countBelow (diverted s) n)).toNat = countBelow (diverted s) n := by
    have := countBelow_le (diverted s) n
    rw [BitVec.toNat_ofNat, Nat.mod_eq_of_lt (by omega)]
  exact {
    n_eq := by rw [setCodec_n, BitVec.toNat_ofNat, Nat.mod_eq_of_lt hn]
    width := by rw [setCodec_k, hk]; exact width
    wc_eq := by rw [setCodec_wc, setCodec_k, hk, hwc]
    oc_eq := hoc
    bits := by rw [setCodec_wc, setCodec_k, hk, hwc]; exact packing.bits
    side := side
    outside := by rw [setCodec_wc, hwc]; exact packing.outside
    obuf := packing.frame.obuf }

/-- The same for the layouts without a side array. -/
theorem Packing.packed_plain {s w : State} {n k : Nat} (plain : s.mode ≠ .overflow) (hn : n < 2 ^ 24)
    (width : LeastWidth (fun j => (inputWord s j).toNat) n k)
    (packing : Packing s (packedBit s.mode (inputWord s) n k) (wordCount s.mode n k) w) (ovf : w.ovf = s.ovf) :
    Packed s n (setCodec n k (wordCount s.mode n k) 0 w) := by
  have packed := Packing.packed (s := s) (w := w) (k := k) hn
  simp only [fieldCount_of_ne plain, mainField_of_ne plain, diverted_of_ne plain, countBelow_false] at packed
  exact packed width packing (ovf ▸ .none _ _ _)

theorem Packing.of_wbuf_eq {s t u : State} {bit : Nat → Nat → Bool} {wc : Nat} (h : Packing s bit wc t)
    (frame : OnlyPack t u) (wbuf : u.wbuf = t.wbuf) : Packing s bit wc u :=
  ⟨h.frame.trans frame, wbuf ▸ h.bits, wbuf ▸ h.outside⟩

/-- D14: a loop starts over cleared words. -/
theorem packing_clearWords {s t : State} (h : OnlySeq s t) {bit : Nat → Nat → Bool} (zero : ∀ a b, bit a b = false)
    (wc : Nat) : Packing s bit wc (clearWords wc t) := by
  refine ⟨h.onlyPack.trans (clearWords_onlyPack wc t), fun a ha b _ => ?_, fun a ha => ?_⟩
  · simp [readWbuf, clearWords_lookup, ha, zero]
  · rw [clearWords_lookup, if_neg (by omega), h.wbuf]

theorem clearWords_ovf (wc : Nat) (s : State) : (clearWords wc s).ovf = s.ovf := by rw [clearWords_eq]

/-- R121: one turn of the non-spanning loop. -/
theorem Packing.packNonspan {s t : State} {k wc j : Nat} (h : Packing s (laneBit (inputWord s) j k) wc t)
    (hk : 1 ≤ k) (hk32 : k ≤ 32) (fits : (inputWord s j).toNat < 2 ^ k) (inside : nonspanIndex j k < wc) :
    Packing s (laneBit (inputWord s) (j + 1) k) wc (packNonspan k j t) := by
  have value : elementWord (readIbuf t j) = inputWord s j := congrArg elementWord (h.frame.readIbuf j)
  unfold Machine.packNonspan
  rw [value]
  refine ⟨h.frame.trans rfl, h.bits.packNonspan hk hk32 fits, fun a ha => ?_⟩
  rw [orWbuf_wbuf, Memory.lookup_store_other _ _ (by omega), h.outside a ha]

/-- R138: the pack step writes no word at or beyond wc. -/
theorem packSpan_lookup_outside (v : Word) (k wc : Nat) (s : State) (inside : s.seq.cur.toNat / 32 < wc) {a : Nat}
    (ha : wc ≤ a) : Memory.lookup (packSpan v k wc s).wbuf a = Memory.lookup s.wbuf a := by
  rw [packSpan_wbuf]
  dsimp only
  split
  · rw [Memory.lookup_store_other _ _ (by omega), Memory.lookup_store_other _ _ (by omega)]
  · rw [Memory.lookup_store_other _ _ (by omega)]

theorem packSpan_ovf (v : Word) (k wc : Nat) (s : State) : (packSpan v k wc s).ovf = s.ovf := by rw [packSpan_eq]

theorem packSpan_p (v : Word) (k wc : Nat) (s : State) : (packSpan v k wc s).seq.p = s.seq.p := by
  simp only [packSpan, setCur_seq]; rw [orField_eq]; rfl

/-- The invariant of the spanning loops after c fields of f: the fields are packed, and CUR is the next bit address
(R138, R139). -/
structure SpanPacking (s : State) (f : Nat → Word) (k wc c : Nat) (t : State) : Prop
    extends Packing s (streamBit f c k) wc t where
  cur : t.seq.cur.toNat = c * k

theorem SpanPacking.of_wbuf_eq {s t u : State} {f : Nat → Word} {k wc c : Nat} (h : SpanPacking s f k wc c t)
    (frame : OnlyPack t u) (wbuf : u.wbuf = t.wbuf) (cur : u.seq.cur = t.seq.cur) : SpanPacking s f k wc c u :=
  ⟨h.toPacking.of_wbuf_eq frame wbuf, cur ▸ h.cur⟩

theorem spanPacking_clearWords {s t : State} (h : OnlySeq s t) (f : Nat → Word) (k wc : Nat) :
    SpanPacking s f k wc 0 (setCur 0 (clearWords wc t)) :=
  ⟨(packing_clearWords h (fun _ _ => by simp [streamBit]) wc).of_wbuf_eq rfl rfl, by simp⟩

/-- R138: one turn of a spanning loop that packs total <= 2^24 fields. -/
theorem SpanPacking.packSpan {s t : State} {f : Nat → Word} {k c total : Nat}
    (h : SpanPacking s f k (wcSpan total k) c t) (hk : 1 ≤ k) (hk32 : k ≤ 32) (hc : c < total)
    (small : total ≤ 2 ^ 24) :
    SpanPacking s f k (wcSpan total k) (c + 1) (packSpan (f c) k (wcSpan total k) t) := by
  have next : c * k + k ≤ total * k := by rw [← Nat.succ_mul]; exact Nat.mul_le_mul_right k hc
  have bound : total * k ≤ 2 ^ 24 * 32 := Nat.mul_le_mul small hk32
  have inside : t.seq.cur.toNat / 32 < wcSpan total k := div_32_lt_wcSpan (by rw [h.cur]; omega)
  refine ⟨⟨h.frame.trans (packSpan_onlyPack _ _ _ _), h.bits.packSpan hk hk32 h.cur, fun a ha => ?_⟩, ?_⟩
  · rw [packSpan_lookup_outside _ _ _ _ inside ha, h.outside a ha]
  · rw [packSpan_cur _ _ _ _ (by rw [h.cur]; omega), h.cur, Nat.succ_mul]

/-! ## The bodies of COMPRESS -/

/-- R121, R136: the width of the layouts without a side array. -/
theorem scanMax_leastWidth (n : Nat) (s : State) :
    LeastWidth (fun j => (inputWord s j).toNat) n (widthOf (scanMax n s).seq.maxv.toNat) := by
  obtain ⟨upper, attained⟩ := scanMax_spec n s
  refine leastWidth_widthOf _ n _ upper (attained.imp (fun h => by rw [h]; rfl) ?_)
  rintro ⟨j, hj, h⟩
  exact ⟨j, hj, congrArg BitVec.toNat h⟩

/-- R121: COMPRESS in mode 0 packs lanes. -/
theorem compressNonspan_packed {s : State} {n : Nat} (mode : s.mode = .nonspan) (hn : n < 2 ^ 24) :
    Packed s n (compressNonspan n s) := by
  have width := scanMax_leastWidth n s
  unfold compressNonspan
  dsimp only
  generalize widthOf (scanMax n s).seq.maxv.toNat = k at width ⊢
  have loop := forElements_induct
    (fun j t => Packing s (laneBit (inputWord s) j k) (wcNonspan n k) t ∧ t.ovf = s.ovf) (packNonspan k) n
    (clearWords (wcNonspan n k) (scanMax n s))
    ⟨packing_clearWords (scanMax_onlySeq n s) (fun _ _ => by simp [laneBit]) _,
      by rw [clearWords_ovf, (scanMax_onlySeq n s).ovf]⟩
    fun j t hj ⟨packing, ovf⟩ => ⟨(packing.of_wbuf_eq (u := setJ j t) rfl rfl).packNonspan width.1 width.le_32
      (width.2.1 j hj) (nonspanIndex_lt_wcNonspan width.1 width.le_32 hj), ovf⟩
  have packed := fun w => Packing.packed_plain (s := s) (w := w) (k := k) (by rw [mode]; decide) hn width
  rw [mode] at packed
  exact packed _ loop.1 loop.2

/-- R136: COMPRESS in mode 1 packs the bitstream. -/
theorem compressSpan_packed {s : State} {n : Nat} (mode : s.mode = .span) (hn : n < 2 ^ 24) :
    Packed s n (compressSpan n s) := by
  have width := scanMax_leastWidth n s
  unfold compressSpan
  dsimp only
  generalize widthOf (scanMax n s).seq.maxv.toNat = k at width ⊢
  have loop := forElements_induct
    (fun j t => SpanPacking s (inputWord s) k (wcSpan n k) j t ∧ t.ovf = s.ovf)
    (fun j t => packSpan (elementWord (readIbuf t j)) k (wcSpan n k) t) n
    (setCur 0 (clearWords (wcSpan n k) (scanMax n s)))
    ⟨spanPacking_clearWords (scanMax_onlySeq n s) _ _ _, by
      rw [setCur_ovf, clearWords_ovf, (scanMax_onlySeq n s).ovf]⟩
    fun j t hj ⟨packing, ovf⟩ => by
      have value : elementWord (readIbuf (setJ j t) j) = inputWord s j :=
        congrArg elementWord (packing.frame.readIbuf j)
      rw [value, packSpan_ovf]
      exact ⟨(packing.of_wbuf_eq (u := setJ j t) rfl rfl rfl).packSpan width.1 width.le_32 hj hn.le, ovf⟩
  have packed := fun w => Packing.packed_plain (s := s) (w := w) (k := k) (by rw [mode]; decide) hn width
  rw [mode] at packed
  exact packed _ loop.1.toPacking loop.2

/-- R170: the width of the overflow layout, the synthetic element among the fields. -/
theorem scanFields_leastWidth {s : State} (mode : s.mode = .overflow) (n : Nat) :
    LeastWidth (fun j => (mainField s n j).toNat) (n + 1) (widthOf (scanFields n s).seq.maxv.toNat) := by
  obtain ⟨lower, upper, attained⟩ := scanFields_spec n s
  refine leastWidth_widthOf _ _ _ (fun j hj => ?_) (.inr ?_)
  · rcases Nat.lt_succ_iff_lt_or_eq.1 hj with h | rfl
    · rw [mainField_of_lt mode h]; exact upper j h
    · rw [mainField_last mode]; exact lower
  · rcases attained with h | ⟨j, hj, h⟩
    · exact ⟨n, Nat.lt_succ_self n, by rw [mainField_last mode, h]⟩
    · exact ⟨j, Nat.lt_succ_of_lt hj, by rw [mainField_of_lt mode hj, h]; rfl⟩

/-- The invariant of R168 after j elements: P is the number of diverted values, and the side array holds them. -/
def SidePacking (s : State) (j : Nat) (t : State) : Prop :=
  t.seq.p.toNat = countBelow (diverted s) j ∧ SideHolds (diverted s) (inputWord s) j s.ovf t.ovf

/-- R168, R170: the push of one turn of the overflow loop. -/
theorem SidePacking.push {s t : State} {j : Nat} (h : SidePacking s j t) (hj : j < 2 ^ 24 - 1) :
    SidePacking s (j + 1) (if diverted s j then pushOvf (inputWord s j) t else t) := by
  obtain ⟨p, side⟩ := h
  have := countBelow_le (diverted s) j
  split
  · next pass =>
    refine ⟨?_, ?_⟩
    · simp only [pushOvf, setP_seq, BitVec.toNat_ofNat, p, countBelow, pass, Bool.toNat_true]
      omega
    · simp only [pushOvf, setP_ovf, writeOvf_ovf, p]
      exact side.push pass
  · next fail =>
    rw [Bool.not_eq_true] at fail
    exact ⟨by simpa [countBelow, fail] using p, side.skip fail⟩

/-- R170: one turn of the overflow loop. -/
theorem packOverflow_packing {s t : State} {n k j : Nat} (mode : s.mode = .overflow) (hn : n < 2 ^ 24) (hj : j < n)
    (hk : 1 ≤ k) (hk32 : k ≤ 32) (span : SpanPacking s (mainField s n) k (wcSpan (n + 1) k) j t)
    (side : SidePacking s j t) :
    SpanPacking s (mainField s n) k (wcSpan (n + 1) k) (j + 1) (packOverflow k (wcSpan (n + 1) k) j t) ∧
      SidePacking s (j + 1) (packOverflow k (wcSpan (n + 1) k) j t) := by
  have value : elementWord (readIbuf t j) = inputWord s j := congrArg elementWord (span.frame.readIbuf j)
  have field : dispatchField (inputWord s j) t.sentinel = mainField s n j := by
    rw [mainField_of_lt mode hj, span.frame.sentinel]
  have divert : diverts (inputWord s j) t.sentinel = diverted s j := by
    rw [diverted_of_overflow mode, span.frame.sentinel]
  unfold packOverflow
  simp only [value, field, divert]
  have pushed : SpanPacking s (mainField s n) k (wcSpan (n + 1) k) j
      (if diverted s j then pushOvf (inputWord s j) t else t) := by
    split
    · exact span.of_wbuf_eq rfl rfl rfl
    · exact span
  refine ⟨pushed.packSpan hk hk32 (by omega) (by omega), ?_⟩
  unfold SidePacking
  rw [packSpan_p, packSpan_ovf]
  exact side.push (by omega)

/-- R170: COMPRESS in mode 2 packs the main stream and fills the side array. -/
theorem compressOverflow_packed {s : State} {n : Nat} (mode : s.mode = .overflow) (hn : n < 2 ^ 24) :
    Packed s n (compressOverflow n s) := by
  have width := scanFields_leastWidth mode n
  unfold compressOverflow
  dsimp only
  generalize widthOf (scanFields n s).seq.maxv.toNat = k at width ⊢
  have start : SidePacking s 0 (setP 0 (setCur 0 (clearWords (wcSpan (n + 1) k) (scanFields n s)))) :=
    ⟨rfl, by rw [setP_ovf, setCur_ovf, clearWords_ovf, (scanFields_onlySeq n s).ovf]; exact .empty _ _ _⟩
  have loop := forElements_induct
    (fun j t => SpanPacking s (mainField s n) k (wcSpan (n + 1) k) j t ∧ SidePacking s j t)
    (packOverflow k (wcSpan (n + 1) k)) n (setP 0 (setCur 0 (clearWords (wcSpan (n + 1) k) (scanFields n s))))
    ⟨(spanPacking_clearWords (scanFields_onlySeq n s) _ _ _).of_wbuf_eq rfl rfl rfl, start⟩
    fun j t hj ⟨span, side⟩ => packOverflow_packing mode hn hj width.1 width.le_32
      (span.of_wbuf_eq (u := setJ j t) rfl rfl rfl) side
  obtain ⟨span, p, side⟩ := loop
  have last := span.packSpan width.1 width.le_32 (Nat.lt_succ_self n) (by omega)
  rw [mainField_last mode] at last
  have packed := fun w => Packing.packed (s := s) (w := w) (k := k) hn
  rw [mode] at packed
  rw [packSpan_p, p]
  exact packed _ width last.toPacking (by rw [packSpan_ovf]; exact side)

/-- R84: what the body of `COMPRESS n` leaves in the codec, in every layout and from every state. -/
theorem compressBody_packed (s : State) {n : Nat} (hn : n < 2 ^ 24) : Packed s n (compressBody n s) := by
  unfold compressBody
  split
  · next mode => exact compressNonspan_packed mode hn
  · next mode => exact compressSpan_packed mode hn
  · next mode => exact compressOverflow_packed mode hn

end Sys2Proof.Machine
end
section
/-! ## What the readers return (R123, R151, R175, R178) -/

namespace Sys2Proof.Machine

/-- R167: a field holds the sentinel exactly where its value was diverted. -/
theorem dispatchField_eq_sentinel_iff (v sentinel : Word) :
    dispatchField v sentinel = sentinel ↔ diverts v sentinel = true := by
  unfold dispatchField
  split
  · next h => simp [h]
  · next h =>
    refine iff_of_false (fun e => ?_) h
    simp [diverts, e] at h

/-- R176: the rank is the number of sentinel fields before the element. -/
theorem rank_eq_countBelow (m : Memory 32) (k : Nat) (sentinel : Word) (i : Nat) :
    rank m k sentinel i = countBelow (fun j => decide (getSpan m j k = sentinel)) i := by
  induction i with
  | zero => rfl
  | succ i ih =>
    simp only [rank, countBelow, ih]
    by_cases h : getSpan m i k = sentinel <;> simp [h]

/-- R136, R151: the fields of a packed stream read back. -/
theorem Packed.getSpan {s t : State} {n j : Nat} (h : Packed s n t) (mode : s.mode ≠ .nonspan)
    (hj : j < fieldCount s.mode n) : getSpan t.wbuf j t.k.toNat = mainField s n j := by
  have bits := h.bits
  rw [h.wc_eq] at bits
  have fits := h.width.2.1 j hj
  generalize s.mode = layout at *
  cases layout with
  | nonspan => exact absurd rfl mode
  | span | overflow => exact HoldsBits.getSpan h.width.1 h.width.le_32 bits hj fits

theorem Packed.getNonspan {s t : State} {n j : Nat} (h : Packed s n t) (mode : s.mode = .nonspan) (hj : j < n) :
    getNonspan t.wbuf j t.k.toNat = inputWord s j := by
  have plain : s.mode ≠ .overflow := by rw [mode]; decide
  obtain ⟨-, width, wc, -, bits, -, -, -⟩ := h
  simp only [wc, mode, mainField_of_ne plain, fieldCount, wordCount, packedBit_nonspan] at bits width
  exact bits.getNonspan width.1 width.le_32 hj (width.2.1 j hj)

/-- R172: in a packed overflow stream the sentinel fields are those of the diverted values. -/
theorem Packed.getSpan_eq_sentinel_iff {s t : State} {n j : Nat} (h : Packed s n t) (mode : s.mode = .overflow)
    (hj : j < n) : Machine.getSpan t.wbuf j t.k.toNat = s.sentinel ↔ diverted s j = true := by
  rw [h.getSpan (by rw [mode]; decide) (by rw [mode]; exact Nat.lt_succ_of_lt hj), mainField_of_lt mode hj,
    diverted_of_overflow mode, dispatchField_eq_sentinel_iff]

/-- R31: element i of a packed codec is the input value. -/
theorem Packed.element {s t : State} {n i : Nat} (h : Packed s n t) (mode : t.mode = s.mode)
    (sentinel : t.sentinel = s.sentinel) (hi : i < n) : element t i = inputWord s i := by
  unfold Machine.element
  rw [mode]
  split
  · next layout => exact h.getNonspan layout hi
  · next layout =>
    rw [h.getSpan (by rw [layout]; decide) (by rw [layout]; exact hi), mainField_of_ne (by rw [layout]; decide)]
  · next layout =>
    unfold getOverflow
    dsimp only
    rw [sentinel, rank_eq_countBelow]
    have ranks : countBelow (fun j => decide (Machine.getSpan t.wbuf j t.k.toNat = s.sentinel)) i =
        countBelow (diverted s) i :=
      countBelow_congr fun j hj => by
        rw [Bool.eq_iff_iff, decide_eq_true_eq]; exact h.getSpan_eq_sentinel_iff layout (hj.trans hi)
    split
    · next field =>
      rw [ranks]
      exact h.side.entries i hi ((h.getSpan_eq_sentinel_iff layout hi).1 field)
    · next field =>
      have kept := mt (h.getSpan_eq_sentinel_iff layout hi).2 field
      rw [diverted_of_overflow layout] at kept
      rw [h.getSpan (by rw [layout]; decide) (by rw [layout]; exact Nat.lt_succ_of_lt hi), mainField_of_lt layout hi]
      exact if_neg kept

/-! ## What DECOMPRESS writes (R124, R154, R178) -/

theorem OnlyObuf.exists_eq {s t : State} (h : OnlyObuf s t) :
    ∃ obuf seq, t = { s with obuf := obuf, seq := seq } := ⟨_, _, h⟩

/-- The invariant of the loops of DECOMPRESS: the first c entries of OBUF are written. -/
structure ObufFilled (s : State) (c : Nat) (t : State) : Prop where
  frame : OnlyObuf s t
  entries : ∀ j, Memory.lookup t.obuf j = if j < c then some (element s j) else Memory.lookup s.obuf j

theorem ObufFilled.start {s t : State} (frame : OnlyObuf s t) (obuf : t.obuf = s.obuf) : ObufFilled s 0 t :=
  ⟨frame, fun j => by simp [obuf]⟩

theorem ObufFilled.write {s t u : State} {c : Nat} (h : ObufFilled s c t) (frame : OnlyObuf t u)
    (obuf : u.obuf = Memory.store t.obuf c (Machine.element s c)) : ObufFilled s (c + 1) u := by
  refine ⟨h.frame.trans frame, fun j => ?_⟩
  rw [obuf, Memory.lookup_store, h.entries]
  by_cases new : j = c
  · simp [new]
  · have : j < c + 1 ↔ j < c := by omega
    simp [new, this]

/-- A loop whose turn j writes element j fills OBUF. -/
theorem forElements_filled {s : State} {body : Nat → State → State}
    (hb : ∀ j obuf seq,
      OnlyObuf { s with obuf := obuf, seq := seq } (body j (setJ j { s with obuf := obuf, seq := seq })) ∧
      (body j (setJ j { s with obuf := obuf, seq := seq })).obuf = Memory.store obuf j (Machine.element s j))
    (count : Nat) : ObufFilled s count (forElements body count s) := by
  refine forElements_induct (ObufFilled s) _ _ s (.start rfl rfl) fun j t _ h => ?_
  obtain ⟨obuf, seq, rfl⟩ := h.frame.exists_eq
  exact h.write (hb j obuf seq).1 (hb j obuf seq).2

/-- R178: one turn of the forward pass; P is the rank of the next element. -/
theorem unpackOverflow_filled {s t : State} {j : Nat} (mode : s.mode = .overflow) (hj : j < 2 ^ 24 - 1)
    (h : ObufFilled s j t) (p : t.seq.p.toNat = rank s.wbuf s.k.toNat s.sentinel j) :
    ObufFilled s (j + 1) (unpackOverflow j t) ∧
      (unpackOverflow j t).seq.p.toNat = rank s.wbuf s.k.toNat s.sentinel (j + 1) := by
  have small : rank s.wbuf s.k.toNat s.sentinel j ≤ j := by rw [rank_eq_countBelow]; exact countBelow_le _ _
  obtain ⟨obuf, seq, rfl⟩ := h.frame.exists_eq
  have value : Machine.element s j = getOverflow s j := by unfold Machine.element; rw [mode]
  unfold getOverflow at value
  dsimp only at value p
  by_cases field : getSpan s.wbuf j s.k.toNat = s.sentinel
  · rw [if_pos field, ← p] at value
    have turn : unpackOverflow j { s with obuf := obuf, seq := seq } =
        setP (seq.p.toNat + 1) (writeObuf j (Machine.element s j)
          (seekSpan j s.k.toNat { s with obuf := obuf, seq := seq })) := by
      rw [value]; exact if_pos field
    rw [turn]
    refine ⟨h.write (by unfold OnlyObuf; rfl) rfl, ?_⟩
    simp only [setP_seq, BitVec.toNat_ofNat, rank, if_pos field, p]
    omega
  · rw [if_neg field] at value
    have turn : unpackOverflow j { s with obuf := obuf, seq := seq } =
        writeObuf j (Machine.element s j) (seekSpan j s.k.toNat { s with obuf := obuf, seq := seq }) := by
      rw [value]; exact if_neg field
    rw [turn]
    exact ⟨h.write (by unfold OnlyObuf; rfl) rfl, by simp only [rank, if_neg field]; exact p⟩

/-- R86: DECOMPRESS fills the first N entries of OBUF with the elements, in every layout. -/
theorem decompressBody_filled (s : State) : ObufFilled s s.n.toNat (decompressBody s) := by
  unfold decompressBody
  split
  · next mode =>
    exact forElements_filled (fun _ _ _ => ⟨by unfold OnlyObuf; rfl, by unfold Machine.element; rw [mode]; rfl⟩) _
  · next mode =>
    exact forElements_filled (fun _ _ _ => ⟨by unfold OnlyObuf; rfl, by unfold Machine.element; rw [mode]; rfl⟩) _
  · next mode =>
    refine (forElements_induct
      (fun j t => ObufFilled s j t ∧ t.seq.p.toNat = rank s.wbuf s.k.toNat s.sentinel j) _ _ (setP 0 s)
      ⟨.start rfl rfl, rfl⟩ fun j t hj ⟨h, p⟩ => ?_).1
    have := s.n.isLt
    exact unpackOverflow_filled mode (by omega) (t := setJ j t) ⟨h.frame.trans rfl, h.entries⟩ p

/-- R86: what OBUF holds after DECOMPRESS. -/
theorem decompress_lookup (s : State) (j : Nat) :
    Memory.lookup (decompress s).obuf j =
      if j < s.n.toNat then some (element s j) else Memory.lookup s.obuf j := by
  rw [decompress_eq]; exact (decompressBody_filled s).entries j

end Sys2Proof.Machine
end
section
/-! ## What a step does to the codec and the memories (R80, R195, R215, R230) -/

namespace Sys2Proof.Machine

/-- R203: a command completes or raises. -/
theorem exec_completes_or_raises {i : Instr} {s t : State} (h : exec i s = .next t) :
    (∃ u, t = complete u) ∨ ∃ e info, t = raise e info s := by
  rw [exec_eq] at h
  injection h with h
  subst h
  cases i with
  | config modef mbf =>
    obtain ⟨-, e⟩ | ⟨-, e⟩ | ⟨-, -, e⟩ | ⟨-, -, -, e⟩ | ⟨-, e⟩ := config_cases modef mbf s
    · exact .inl ⟨_, e⟩
    · exact .inl ⟨_, e⟩
    · exact .inr ⟨_, _, e⟩
    · exact .inl ⟨_, e⟩
    · exact .inr ⟨_, _, e⟩
  | compress n =>
    obtain ⟨-, e⟩ | ⟨_, -, -, -, -, e⟩ | ⟨-, e⟩ | ⟨-, -, -, e⟩ := compress_cases n s
    · exact .inr ⟨_, _, e⟩
    · exact .inr ⟨_, _, e⟩
    · exact .inl ⟨_, e⟩
    · exact .inl ⟨_, e⟩
  | get j =>
    obtain ⟨-, e⟩ | ⟨-, e⟩ := get_cases j s
    · exact .inr ⟨_, _, e⟩
    · exact .inl ⟨_, e⟩
  | decompress => exact .inl ⟨_, rfl⟩
  | size => exact .inl ⟨_, rfl⟩

/-- R190: an error never reports the code of success. -/
theorem raise_errcode_ne_zero (e : ErrorKind) (info : Word) (s : State) : (raise e info s).errcode ≠ 0 := by
  rw [raise_errcode]; cases e <;> decide

/-- N, K, WC and OC are 0 (R84, R215). -/
def EmptyCodec (t : State) : Prop := t.n = 0 ∧ t.k = 0 ∧ t.wc = 0 ∧ t.oc = 0

/-- The codec state is that of `s`, the cells of WBUF and OVF included. -/
def KeepsCodec (s t : State) : Prop := SameCodecRegs s t ∧ t.wbuf = s.wbuf ∧ t.ovf = s.ovf

/-- What can happen to the codec state: nothing, it is emptied, or n inputs are packed. -/
inductive CodecEffect (s t : State) : Prop where
  | kept (codec : KeepsCodec s t)
  | emptied (empty : EmptyCodec t) (config : ConfigLegal s → ConfigLegal t) (wbuf : t.wbuf = s.wbuf)
      (ovf : t.ovf = s.ovf)
  | packed (n : Nat) (pos : 1 ≤ n) (le : n ≤ s.nmax.toNat) (packed : Packed s n t) (mode : t.mode = s.mode)
      (mainBits : t.mainBits = s.mainBits) (sentinel : t.sentinel = s.sentinel)

/-- What a step can do to the codec state, OLEN, NMAX and the memories. -/
structure StepEffect (s t : State) : Prop where
  nmax : t.nmax = s.nmax
  codec : CodecEffect s t
  olen : t.olen = s.olen ∨ t.olen = s.n ∨ t.olen = 0
  ibuf : ∀ a, s.nmax.toNat ≤ a → Memory.lookup t.ibuf a ≠ none → Memory.lookup s.ibuf a ≠ none
  obuf : ∀ a, s.n.toNat ≤ a → Memory.lookup t.obuf a = Memory.lookup s.obuf a

/-- A step that leaves the codec, OLEN, NMAX and the memories alone. -/
theorem StepEffect.of_same {s t : State} (codec : KeepsCodec s t) (nmax : t.nmax = s.nmax) (olen : t.olen = s.olen)
    (ibuf : t.ibuf = s.ibuf) (obuf : t.obuf = s.obuf) : StepEffect s t :=
  ⟨nmax, .kept codec, .inl olen, fun _ _ h => ibuf ▸ h, fun _ _ => by rw [obuf]⟩

theorem KeepsCodec.refl (s : State) : KeepsCodec s s := ⟨⟨rfl, rfl, rfl, rfl, rfl, rfl, rfl⟩, rfl, rfl⟩

theorem raise_effect (e : ErrorKind) (info : Word) (s : State) : StepEffect s (raise e info s) :=
  .of_same (.refl s) rfl rfl rfl rfl

theorem mask_toNat {k : Nat} (hk : k ≤ 32) : (mask k).toNat = 2 ^ k - 1 := by
  have : 2 ^ k ≤ 2 ^ 32 := Nat.pow_le_pow_right (by decide) hk
  rw [mask, BitVec.toNat_ofNat, Nat.mod_eq_of_lt (by omega)]

/-- R83: CONFIG empties the codec, or fails. -/
theorem config_effect (modef mbf : Nat) (s : State) : StepEffect s (config modef mbf s) := by
  have emptied : ∀ mode mainBits sentinel, ConfigLegal (complete (configure mode mainBits sentinel s)) →
      StepEffect s (complete (configure mode mainBits sentinel s)) := fun mode mainBits sentinel legal =>
    ⟨rfl, .emptied ⟨rfl, rfl, rfl, rfl⟩ (fun _ => legal) rfl rfl, .inr (.inr rfl), fun _ _ h => h, fun _ _ => rfl⟩
  obtain ⟨-, e⟩ | ⟨-, e⟩ | ⟨-, -, e⟩ | ⟨-, one, top, e⟩ | ⟨-, e⟩ := config_cases modef mbf s
  · rw [e]; exact emptied _ _ _ ⟨fun h => (by cases h), fun _ => ⟨rfl, rfl, rfl⟩⟩
  · rw [e]; exact emptied _ _ _ ⟨fun h => (by cases h), fun _ => ⟨rfl, rfl, rfl⟩⟩
  · rw [e]; exact raise_effect _ _ s
  · rw [e]
    refine emptied _ _ _ ⟨fun _ => ?_, fun h => absurd rfl h⟩
    simp only [complete_mainBits, complete_sentinel, configure_eq, BitVec.toNat_ofNat, mask_toNat top]
    rw [Nat.mod_eq_of_lt (by omega)]
    exact ⟨one, top, rfl⟩
  · rw [e]; exact raise_effect _ _ s

theorem Packed.complete {s t : State} {n : Nat} (h : Packed s n t) : Packed s n (complete t) :=
  ⟨h.n_eq, h.width, h.wc_eq, h.oc_eq, h.bits, h.side, h.outside, h.obuf⟩

/-- R84: a COMPRESS that passes its checks packs. -/
theorem complete_compressBody_packed {s : State} {n : Nat} (hn : n ≤ s.nmax.toNat) :
    Packed s n (Machine.complete (compressBody n s)) :=
  (compressBody_packed s (hn.trans_lt s.nmax.isLt)).complete

/-- R84: COMPRESS fails, empties the codec or packs. -/
theorem compress_effect (n : Nat) (s : State) : StepEffect s (compress n s) := by
  obtain ⟨-, e⟩ | ⟨_, -, -, -, -, e⟩ | ⟨-, e⟩ | ⟨pos, le, -, e⟩ := compress_cases n s
  · rw [e]; exact raise_effect _ _ s
  · rw [e]; exact raise_effect _ _ s
  · rw [e]
    exact ⟨rfl, .emptied ⟨rfl, rfl, rfl, rfl⟩ (fun h => ⟨h.1, fun g => ⟨(h.2 g).1, (h.2 g).2.1, rfl⟩⟩) rfl rfl,
      .inl rfl, fun _ _ h => h, fun _ _ => rfl⟩
  · have packed := complete_compressBody_packed le
    rw [e]
    rw [compressBody_eq] at packed ⊢
    exact ⟨rfl, .packed n pos le packed rfl rfl rfl, .inl rfl, fun _ _ h => h, fun _ _ => by rw [packed.obuf]⟩

theorem get_effect (i : Nat) (s : State) : StepEffect s (get i s) := by
  obtain ⟨-, e⟩ | ⟨-, e⟩ := get_cases i s
  · rw [e]; exact raise_effect _ _ s
  · rw [e]; exact .of_same (.refl s) rfl rfl rfl rfl

theorem decompress_effect (s : State) : StepEffect s (decompress s) := by
  have outside : ∀ a, s.n.toNat ≤ a → Memory.lookup (decompress s).obuf a = Memory.lookup s.obuf a := fun a ha => by
    rw [decompress_lookup, if_neg (by omega)]
  rw [decompress_eq] at outside ⊢
  exact ⟨rfl, .kept (.refl s), .inr (.inl rfl), fun _ _ h => h, outside⟩

theorem exec_effect {i : Instr} {s t : State} (h : exec i s = .next t) : StepEffect s t := by
  rw [exec_eq] at h
  injection h with h
  subst h
  cases i with
  | config modef mbf => exact config_effect modef mbf s
  | compress n => exact compress_effect n s
  | get j => exact get_effect j s
  | decompress => exact decompress_effect s
  | size => exact .of_same (.refl s) rfl rfl rfl rfl

/-- The effect of a command does not depend on BUSY and the host's moves. -/
theorem CodecEffect.of_issue {s t : State} {moves : List HostMove} {busy : Bool}
    (h : CodecEffect { s with moves := moves, busy := busy } t) : CodecEffect s t := by
  cases h with
  | kept codec => exact .kept codec
  | emptied empty config wbuf ovf => exact .emptied empty config wbuf ovf
  | packed n pos le packed mode mainBits sentinel =>
    exact .packed n pos le ⟨packed.n_eq, packed.width, packed.wc_eq, packed.oc_eq, packed.bits, packed.side,
      packed.outside, packed.obuf⟩ mode mainBits sentinel

theorem StepEffect.of_issue {s t : State} {moves : List HostMove} {busy : Bool}
    (h : StepEffect { s with moves := moves, busy := busy } t) : StepEffect s t :=
  ⟨h.nmax, h.codec.of_issue, h.olen, h.ibuf, h.obuf⟩

/-- R215, R216: the reset event empties the codec. -/
theorem resetEvent_effect (s : State) : StepEffect s (resetEvent s) :=
  ⟨rfl, .emptied ⟨rfl, rfl, rfl, rfl⟩ (fun _ => ⟨fun h => (by cases h), fun _ => ⟨rfl, rfl, rfl⟩⟩) rfl rfl,
    .inr (.inr rfl), fun _ _ h => absurd rfl h, fun _ _ => rfl⟩

/-- R28: a host write of IBUF stays below NMAX and touches nothing else. -/
theorem hostWriteIbuf_effect (j : Nat) (v : Element) (s : State) : StepEffect s (hostWriteIbuf j v s) := by
  unfold hostWriteIbuf
  split
  · refine ⟨rfl, .kept (.refl s), .inl rfl, fun a ha h => ?_, fun _ _ => rfl⟩
    rwa [Memory.lookup_store_other _ _ (by omega)] at h
  · exact .of_same (.refl s) rfl rfl rfl rfl

/-- Everything a step can do to the codec, OLEN, NMAX and the memories. -/
theorem step_effect {s t : State} (h : step s = .next t) : StepEffect s t := by
  obtain ⟨-, -, rfl⟩ | ⟨_, rest, -, ⟨-, rfl⟩ | ⟨_, rfl⟩ | ⟨-, rfl⟩ | ⟨_, _, -, -, rfl⟩ |
    ⟨_, _, -, -, -, h⟩ | ⟨_, _, -, -, -, rfl⟩⟩ := step_cases h
  · exact .of_same (.refl _) rfl rfl rfl rfl
  · exact (resetEvent_effect { s with moves := rest }).of_issue (busy := s.busy)
  · exact .of_same (.refl s) rfl rfl rfl rfl
  · exact .of_same (.refl s) rfl rfl rfl rfl
  · exact (hostWriteIbuf_effect _ _ { s with moves := rest }).of_issue (busy := s.busy)
  · exact (exec_effect h).of_issue
  · exact .of_same (.refl s) rfl rfl rfl rfl

/-- R80: no step leads from an idle state to a busy one. -/
theorem step_idle {s t : State} (idle : s.busy = false) (h : step s = .next t) : t.busy = false := by
  obtain ⟨-, -, rfl⟩ | ⟨_, rest, -, ⟨-, rfl⟩ | ⟨_, rfl⟩ | ⟨-, rfl⟩ | ⟨j, v, -, -, rfl⟩ |
    ⟨_, _, -, -, -, h⟩ | ⟨_, _, -, -, -, rfl⟩⟩ := step_cases h
  · exact idle
  · rfl
  · exact idle
  · exact idle
  · unfold hostWriteIbuf; split <;> exact idle
  · obtain ⟨_, rfl⟩ | ⟨_, _, rfl⟩ := exec_completes_or_raises h <;> rfl
  · rfl

/-! ## R26, R30 and R24: what every step keeps -/

/-- Settles O41: the effect of every step leaves NMAX alone. -/
theorem nmaxIsConstant : Obligations.NmaxIsConstant := fun _ _ h => (step_effect h).nmax

theorem ceilDiv_pos {a b : Nat} (ha : 1 ≤ a) (hb : 1 ≤ b) : 1 ≤ ceilDiv a b :=
  (lt_ceilDiv_iff 0 a b hb).2 (by omega)

/-- R30: a packed buffer of at least one element has at least one word. -/
theorem Packed.wc_pos {s t : State} {n : Nat} (h : Packed s n t) (pos : 1 ≤ n) : 1 ≤ t.wc.toNat := by
  have hk := h.width.1
  rw [h.wc_eq]
  cases s.mode with
  | nonspan => exact ceilDiv_pos pos (one_le_epw hk h.width.le_32)
  | span => exact ceilDiv_pos (Nat.mul_pos pos hk) (by decide)
  | overflow => exact ceilDiv_pos (Nat.mul_pos (Nat.succ_pos n) hk) (by decide)

/-- R171: in overflow mode the width is MAIN_BITS, since the synthetic element SENTINEL - 1 needs all of it. -/
theorem leastWidth_mainBits {s : State} (mode : s.mode = .overflow) (legal : OverflowLegal s) (n : Nat) :
    LeastWidth (fun j => (mainField s n j).toNat) (n + 1) s.mainBits.toNat := by
  obtain ⟨one, top, sentinel⟩ := legal mode
  have pow : 2 ^ s.mainBits.toNat = 2 * 2 ^ (s.mainBits.toNat - 1) := by rw [← Nat.pow_succ']; congr 1; omega
  have pos : 0 < 2 ^ (s.mainBits.toNat - 1) := Nat.pow_pos (by decide)
  have last : (mainField s n n).toNat = s.sentinel.toNat - 1 := by
    rw [mainField_last mode, synthetic, BitVec.toNat_sub_of_le (by rw [BitVec.le_def]; simp; omega)]; rfl
  refine ⟨one, fun j hj => ?_, fun b hb holds => ?_⟩
  · rcases Nat.lt_succ_iff_lt_or_eq.1 hj with h | rfl
    · simp only [mainField_of_lt mode h, dispatchField, diverts]
      by_cases kept : inputWord s j < s.sentinel
      · simp only [kept, decide_true, Bool.not_true, Bool.false_eq_true, if_false]
        rw [BitVec.lt_def] at kept
        omega
      · simp only [kept, decide_false, Bool.not_false, if_true]
        omega
    · simp only [last]; omega
  · by_contra short
    have : 2 ^ b ≤ 2 ^ (s.mainBits.toNat - 1) := Nat.pow_le_pow_right (by decide) (by omega)
    have := holds n (Nat.lt_succ_self n)
    have : 2 ^ 1 ≤ 2 ^ b := Nat.pow_le_pow_right (by decide) hb
    simp only [last] at *
    omega

/-- R30: N > 0 after packing says what it must of K, WC and OC. -/
theorem Packed.layoutCounts {s t : State} {n : Nat} (h : Packed s n t) (mode : t.mode = s.mode)
    (mainBits : t.mainBits = s.mainBits) (legal : OverflowLegal s) : LayoutCounts t := by
  unfold LayoutCounts
  rw [mode]
  have wc := h.wc_eq
  split
  · next layout => rw [wc, layout, h.n_eq]; rfl
  · next layout => rw [wc, layout, h.n_eq]; rfl
  · next layout =>
    have width := h.width
    rw [layout] at width
    refine ⟨?_, by rw [wc, layout, h.n_eq]; rfl, by rw [h.oc_eq, h.n_eq]; exact countBelow_le _ _⟩
    rw [mainBits]
    exact BitVec.eq_of_toNat_eq (width.unique (leastWidth_mainBits layout legal n))

/-- R30: packing keeps the clauses on the configuration. -/
theorem Packed.configLegal {s t : State} {n : Nat} (h : Packed s n t) (mode : t.mode = s.mode)
    (mainBits : t.mainBits = s.mainBits) (sentinel : t.sentinel = s.sentinel) (legal : ConfigLegal s) :
    ConfigLegal t := by
  unfold ConfigLegal OverflowLegal
  rw [mode, mainBits, sentinel]
  refine ⟨legal.1, fun plain => ⟨(legal.2 plain).1, (legal.2 plain).2.1, BitVec.eq_of_toNat_eq ?_⟩⟩
  rw [h.oc_eq, diverted_of_ne plain, countBelow_false]; rfl

theorem ne_zero_of_toNat_pos {w : Nat} {x : BitVec w} (h : 1 ≤ x.toNat) : x ≠ 0 := by
  rintro rfl; simp at h

/-- R30: every effect of a step keeps the register clauses. -/
theorem StepEffect.regInv {s t : State} (h : StepEffect s t) (inv : RegInv s) (idle : t.busy = false) : RegInv t := by
  have olen_le : t.olen.toNat ≤ t.nmax.toNat := by
    rw [h.nmax]
    obtain e | e | e := h.olen
    · rw [e]; exact inv.olen_le
    · rw [e]; exact inv.n_le
    · rw [e]; exact Nat.zero_le _
  have nmax_pos : 1 ≤ t.nmax.toNat := h.nmax ▸ inv.nmax_pos
  cases h.codec with
  | kept codec =>
    obtain ⟨⟨mode, mainBits, sentinel, n, k, wc, oc⟩, -, -⟩ := codec
    have config := inv.config
    have counts := inv.counts
    unfold ConfigLegal OverflowLegal at config
    unfold LayoutCounts at counts
    rw [← mode, ← mainBits, ← sentinel, ← oc] at config
    rw [← n, ← mode, ← wc, ← k, ← mainBits, ← oc] at counts
    exact {
      idle, nmax_pos, olen_le, config, counts
      n_le := by rw [n, h.nmax]; exact inv.n_le
      k_zero := by rw [n, k]; exact inv.k_zero
      wc_zero := by rw [n, wc]; exact inv.wc_zero
      oc_zero := by rw [n, oc]; exact inv.oc_zero
      width := by rw [n, k]; exact inv.width }
  | emptied empty config =>
    obtain ⟨n, k, wc, oc⟩ := empty
    exact {
      idle, nmax_pos, olen_le
      n_le := by rw [n]; exact Nat.zero_le _
      k_zero := iff_of_true n k
      wc_zero := iff_of_true n wc
      oc_zero := fun _ => oc
      config := config inv.config
      width := fun g => absurd n g
      counts := fun g => absurd n g }
  | packed n pos le packed mode mainBits sentinel =>
    have nonempty : t.n ≠ 0 := ne_zero_of_toNat_pos (packed.n_eq ▸ pos)
    exact {
      idle, nmax_pos, olen_le
      n_le := by rw [packed.n_eq, h.nmax]; exact le
      k_zero := iff_of_false nonempty (ne_zero_of_toNat_pos packed.width.1)
      wc_zero := iff_of_false nonempty (ne_zero_of_toNat_pos (packed.wc_pos pos))
      oc_zero := fun g => absurd g nonempty
      config := packed.configLegal mode mainBits sentinel inv.config
      width := fun _ => ⟨packed.width.1, packed.width.le_32⟩
      counts := fun _ => packed.layoutCounts mode mainBits inv.config.1 }

/-- Settles O37: each of the three effects a step can have on the codec keeps the register clauses. -/
theorem stepKeepsRegisterClauses : Obligations.StepKeepsRegisterClauses := fun _ _ inv h =>
  (step_effect h).regInv inv (step_idle inv.idle h)

/-- R30: in a packed overflow stream OC is the number of sentinel fields. -/
theorem Packed.overflowCountInv {s t : State} {n : Nat} (h : Packed s n t) (mode : t.mode = s.mode)
    (sentinel : t.sentinel = s.sentinel) : OverflowCountInv t := by
  intro overflow _
  rw [h.n_eq, h.oc_eq, sentinel]
  refine (countBelow_congr fun j hj => ?_).symm
  rw [streamField_eq_getSpan _ _ _ h.width.le_32, Bool.eq_iff_iff, decide_eq_true_eq, BitVec.toNat_inj]
  exact h.getSpan_eq_sentinel_iff (mode ▸ overflow) hj

/-- R30: the bits of a packed buffer that belong to no field are 0. -/
theorem Packed.unusedBitsInv {s t : State} {n : Nat} (h : Packed s n t) (mode : t.mode = s.mode) :
    UnusedBitsInv t := by
  intro a ha b hb unused
  rw [h.bits a ha b hb]
  have hk := h.width.1
  unfold UnusedBit at unused
  rw [h.n_eq, mode] at unused
  have past : ∀ c, c * t.k.toNat ≤ 32 * a + b → streamBit (mainField s n) c t.k.toNat a b = false := fun c hc => by
    have : ¬ (32 * a + b) / t.k.toNat < c := Nat.not_lt.2 ((Nat.le_div_iff_mul_le hk).2 hc)
    simp [streamBit, this]
  generalize s.mode = layout at *
  cases layout with
  | nonspan =>
    have : ¬ (b < epw t.k.toNat * t.k.toNat ∧ a * epw t.k.toNat + b / t.k.toNat < n) := by
      simp only [epw]; simp only at unused; omega
    exact by simp only [packedBit_nonspan, laneBit, fieldCount, this, decide_false, Bool.false_and]
  | span => exact past n unused
  | overflow => exact past (n + 1) unused

/-- R30: every effect of a step keeps the whole invariant. -/
theorem StepEffect.inv {s t : State} (h : StepEffect s t) (inv : Inv s) (idle : t.busy = false) : Inv t := by
  have regs := h.regInv inv.regs idle
  cases h.codec with
  | kept codec =>
    obtain ⟨⟨mode, -, sentinel, n, k, wc, oc⟩, wbuf, -⟩ := codec
    have count := inv.overflowCount
    have unused := inv.unusedBits
    unfold OverflowCountInv at count
    unfold UnusedBitsInv UnusedBit at unused
    rw [← mode, ← sentinel, ← n, ← k, ← oc, ← wbuf] at count
    rw [← mode, ← n, ← k, ← wc, ← wbuf] at unused
    exact ⟨regs, count, unused⟩
  | emptied empty =>
    obtain ⟨n, -, wc, -⟩ := empty
    refine ⟨regs, fun _ nonempty => absurd n nonempty, fun a ha => absurd ha ?_⟩
    rw [wc]
    exact Nat.not_lt_zero a
  | packed n _ _ packed mode _ sentinel =>
    exact ⟨regs, packed.overflowCountInv mode sentinel, packed.unusedBitsInv mode⟩

/-- Settles O38: each of the three effects a step can have on the codec keeps R30, packing by the bits it leaves. -/
theorem stepKeepsBlockInvariant : Obligations.StepKeepsBlockInvariant := fun _ _ inv h =>
  (step_effect h).inv inv (step_idle inv.regs.idle h)

theorem Memory.lookup_ne_none_of_mem {width : Nat} {m : Memory width} {e : Nat × BitVec width} (h : e ∈ m) :
    Memory.lookup m e.1 ≠ none := by
  induction m with
  | nil => cases h
  | cons c m ih =>
    obtain ⟨a, v⟩ := c
    simp only [Memory.lookup]
    split
    · simp
    · rcases List.mem_cons.1 h with rfl | h
      · contradiction
      · exact ih h

theorem Memory.mem_of_lookup_ne_none {width : Nat} {m : Memory width} {a : Nat} (h : Memory.lookup m a ≠ none) :
    ∃ e ∈ m, e.1 = a := by
  induction m with
  | nil => exact absurd rfl h
  | cons c m ih =>
    obtain ⟨b, v⟩ := c
    by_cases here : b = a
    · exact ⟨(b, v), List.mem_cons_self, here⟩
    · simp only [Memory.lookup, if_neg here] at h
      obtain ⟨e, he, rfl⟩ := ih h
      exact ⟨e, List.mem_cons_of_mem _ he, rfl⟩

/-- R24: a memory is within a depth when no entry at or beyond it is written. -/
theorem Memory.within_iff {width : Nat} (m : Memory width) (depth : Nat) :
    Memory.within m depth = true ↔ ∀ a, depth ≤ a → Memory.lookup m a = none := by
  simp only [Memory.within, List.all_eq_true, decide_eq_true_eq]
  constructor
  · intro h a ha
    by_contra written
    obtain ⟨e, he, rfl⟩ := Memory.mem_of_lookup_ne_none written
    exact absurd (h e he) (by omega)
  · intro h e he
    by_contra beyond
    exact Memory.lookup_ne_none_of_mem he (h e.1 (by omega))

/-- A memory that is within a depth stays so when nothing at or beyond the depth changes. -/
theorem Memory.within_of_same_beyond {width : Nat} {m m' : Memory width} {depth : Nat}
    (h : Memory.within m depth = true) (same : ∀ a, depth ≤ a → Memory.lookup m' a = Memory.lookup m a) :
    Memory.within m' depth = true :=
  (Memory.within_iff m' depth).2 fun a ha => (same a ha).trans ((Memory.within_iff m depth).1 h a ha)

/-- R109: packing n <= NMAX inputs changes no word beyond NMAX + 1 and no side-array entry beyond NMAX. -/
theorem CodecEffect.same_beyond {s t : State} (h : CodecEffect s t) :
    (∀ a, s.nmax.toNat + 1 ≤ a → Memory.lookup t.wbuf a = Memory.lookup s.wbuf a) ∧
      ∀ p, s.nmax.toNat ≤ p → Memory.lookup t.ovf p = Memory.lookup s.ovf p := by
  cases h with
  | kept codec => exact ⟨fun _ _ => by rw [codec.2.1], fun _ _ => by rw [codec.2.2]⟩
  | emptied _ _ wbuf ovf => exact ⟨fun _ _ => by rw [wbuf], fun _ _ => by rw [ovf]⟩
  | packed n pos le packed =>
    refine ⟨fun a ha => packed.outside a ?_, fun p hp => packed.side.outside p ?_⟩
    · have := wordCount_le s.mode (c := fieldCount s.mode n) packed.width.1 packed.width.le_32
      have := fieldCount_le s.mode n
      rw [packed.wc_eq]
      omega
    · have := countBelow_le (diverted s) n
      omega

/-- Settles O40: what a step changes lies below the live ranges it leaves, and these are within the depths. -/
theorem stepStaysInsideMemories : Obligations.StepStaysInsideMemories := by
  intro s t inv ⟨ibuf, wbuf, ovf, obuf⟩ h
  have effect := step_effect h
  obtain ⟨words, side⟩ := effect.codec.same_beyond
  unfold MemoriesWithin
  rw [effect.nmax]
  refine ⟨(Memory.within_iff _ _).2 fun a ha => ?_, Memory.within_of_same_beyond wbuf words,
    Memory.within_of_same_beyond ovf side,
    Memory.within_of_same_beyond obuf fun a ha => effect.obuf a (inv.n_le.trans ha)⟩
  by_contra written
  exact effect.ibuf a ha written ((Memory.within_iff _ _).1 ibuf a ha)

end Sys2Proof.Machine
end
section
/-! ## COMPRESS by its input (R84) -/

namespace Sys2Proof.Machine

theorem isNegative_eq_false_iff (v : Element) : isNegative v = false ↔ 0 ≤ v.toInt := by
  rw [isNegative, BitVec.msb_eq_toInt, decide_eq_false_iff_not, not_lt]

theorem inputSupported_iff (s : State) (n : Nat) :
    InputSupported s n ↔ ∀ j < n, isNegative (readIbuf s j) = false := by
  simp only [InputSupported, isNegative_eq_false_iff]

/-- R194: the word packed for a supported value is the value. -/
theorem inputWord_toNat {s : State} {n j : Nat} (h : InputSupported s n) (hj : j < n) :
    (inputWord s j).toNat = inputValue s j ∧ inputValue s j < 2 ^ 32 := by
  have small : inputValue s j < 2 ^ 32 := BitVec.toNat_lt_of_msb_false ((inputSupported_iff s n).1 h j hj)
  refine ⟨?_, small⟩
  rw [inputWord, elementWord, BitVec.toNat_setWidth]
  exact Nat.mod_eq_of_lt small

theorem compress_of_over {s : State} {n : Nat} (above : s.nmax.toNat < n) :
    compress n s = raise .capacityExceeded (BitVec.ofNat 32 n) s := if_pos above

/-- R194: the scan reports the least negative index. -/
theorem compress_of_negative {s : State} {n j : Nat} (le : n ≤ s.nmax.toNat) (hj : j < n)
    (negative : isNegative (readIbuf s j) = true) (before : ∀ i < j, isNegative (readIbuf s i) = false) :
    compress n s = raise .unsupportedValue (BitVec.ofNat 32 j) s := by
  obtain ⟨above, -⟩ | ⟨i, -, -, neg, least, e⟩ | ⟨rfl, -⟩ | ⟨-, -, none, -⟩ := compress_cases n s
  · omega
  · have : i = j := by
      rcases lt_trichotomy i j with h | h | h
      · rw [before i h] at neg; cases neg
      · exact h
      · rw [least j h] at negative; cases negative
    rw [e, this]
  · omega
  · rw [none j hj] at negative; cases negative

theorem compress_of_supported {s : State} {n : Nat} (pos : 1 ≤ n) (le : n ≤ s.nmax.toNat)
    (supported : ∀ i < n, isNegative (readIbuf s i) = false) : compress n s = complete (compressBody n s) := by
  obtain ⟨above, -⟩ | ⟨i, -, hi, neg, -⟩ | ⟨rfl, -⟩ | ⟨-, -, -, e⟩ := compress_cases n s
  · omega
  · rw [supported i hi] at neg; cases neg
  · omega
  · exact e

theorem compress_zero (s : State) : compress 0 s = complete (setCodec 0 0 0 0 s) := rfl

theorem completed_complete (s : State) : Completed (complete s) := ⟨rfl, rfl, rfl⟩

/-- R84: a COMPRESS of supported input completes with the input packed. -/
theorem compress_packs {s : State} {n : Nat} (pos : 1 ≤ n) (le : n ≤ s.nmax.toNat) (supported : InputSupported s n) :
    Completed (compress n s) ∧ Packed s n (compress n s) ∧ (compress n s).mode = s.mode ∧
      (compress n s).sentinel = s.sentinel := by
  rw [compress_of_supported pos le ((inputSupported_iff s n).1 supported)]
  refine ⟨completed_complete _, complete_compressBody_packed le, ?_, ?_⟩ <;> rw [compressBody_eq] <;> rfl

/-! ## The codec contract (R31, R89) -/

/-- R52: writes of IBUF touch IBUF only. -/
theorem foldl_hostWriteIbuf_eq (later : List (Nat × Element)) (t : State) :
    ∃ ibuf, later.foldl (fun r w => hostWriteIbuf w.1 w.2 r) t = { t with ibuf := ibuf } := by
  induction later generalizing t with
  | nil => exact ⟨t.ibuf, rfl⟩
  | cons w later ih =>
    obtain ⟨ibuf, e⟩ := ih (hostWriteIbuf w.1 w.2 t)
    refine ⟨ibuf, ?_⟩
    rw [List.foldl_cons, e]
    unfold hostWriteIbuf
    split <;> rfl

theorem element_withIbuf (t : State) (ibuf : Memory 33) (i : Nat) :
    element { t with ibuf := ibuf } i = element t i := by
  unfold element; rfl

theorem get_of_lt {i : Nat} {s : State} (h : i < s.n.toNat) : get i s = complete { s with res := element s i } := by
  obtain ⟨le, -⟩ | ⟨-, e⟩ := get_cases i s
  · omega
  · exact e

/-- Settles O34: the codec is packed, the later writes do not touch it, and its elements are the input values. -/
theorem pointAccessRoundTrip : Obligations.PointAccessRoundTrip := by
  intro s n _ le supported
  obtain rfl | pos := Nat.eq_zero_or_pos n
  · exact ⟨_, rfl, completed_complete _, fun _ i hi => absurd hi (Nat.not_lt_zero i)⟩
  · obtain ⟨completed, packed, mode, sentinel⟩ := compress_packs pos le supported
    refine ⟨_, rfl, completed, fun later i hi => ⟨_, rfl, ?_⟩⟩
    obtain ⟨ibuf, e⟩ := foldl_hostWriteIbuf_eq later (compress n s)
    rw [e, get_of_lt (by simpa only [packed.n_eq] using hi), element_withIbuf]
    refine ⟨completed_complete _, ?_⟩
    rw [complete_res, packed.element mode sentinel hi]
    exact (inputWord_toNat supported hi).1

/-- Settles O35: DECOMPRESS writes the elements of the packed codec, which are the input values. -/
theorem decompressRoundTrip : Obligations.DecompressRoundTrip := by
  intro s n _ le supported
  have olen : ∀ t : State, (decompress t).olen = t.n := fun t => by rw [decompress_eq]; rfl
  obtain rfl | pos := Nat.eq_zero_or_pos n
  · exact ⟨_, _, rfl, rfl, completed_complete _, completed_complete _, by rw [olen]; rfl,
      fun j hj => absurd hj (Nat.not_lt_zero j)⟩
  · obtain ⟨completed, packed, mode, sentinel⟩ := compress_packs pos le supported
    refine ⟨_, _, rfl, rfl, completed, completed_complete _, by rw [olen, packed.n_eq], fun j hj => ?_⟩
    obtain ⟨value, small⟩ := inputWord_toNat supported hj
    refine ⟨?_, small⟩
    have live : j < (compress n s).n.toNat := packed.n_eq.symm ▸ hj
    simp only [entryData, olen, if_pos live, readObuf, decompress_lookup, Option.getD_some,
      packed.element mode sentinel hj, ← value, BitVec.ofNat_toNat, BitVec.setWidth_eq]

/-! ## The earlier codec state is no input of COMPRESS (R32, R46, R84) -/

/-- Two states that agree on what COMPRESS n reads. -/
structure SameInput (n : Nat) (s s' : State) : Prop where
  mode : s'.mode = s.mode
  sentinel : s'.sentinel = s.sentinel
  entries : ∀ j < n, readIbuf s' j = readIbuf s j

theorem SameInput.inputWord {n j : Nat} {s s' : State} (h : SameInput n s s') (hj : j < n) :
    inputWord s' j = inputWord s j := congrArg elementWord (h.entries j hj)

theorem SameInput.diverted {n j : Nat} {s s' : State} (h : SameInput n s s') (hj : j < n) :
    diverted s' j = diverted s j := by
  unfold Machine.diverted
  rw [h.mode, h.inputWord hj, h.sentinel]

theorem SameInput.mainField {n j : Nat} {s s' : State} (h : SameInput n s s') (hj : j < fieldCount s.mode n) :
    mainField s' n j = mainField s n j := by
  by_cases overflow : s.mode = .overflow
  · rw [overflow] at hj
    rcases Nat.lt_succ_iff_lt_or_eq.1 hj with old | rfl
    · rw [mainField_of_lt overflow old, mainField_of_lt (h.mode.trans overflow) old, h.inputWord old, h.sentinel]
    · rw [mainField_last overflow, mainField_last (h.mode.trans overflow), h.sentinel]
  · have plain : s'.mode ≠ .overflow := h.mode ▸ overflow
    rw [mainField_of_ne overflow, mainField_of_ne plain, h.inputWord]
    unfold fieldCount at hj
    split at hj
    · exact hj
    · exact hj
    · contradiction

theorem packedBit_congr (mode : Mode) {f f' : Nat → Word} {c : Nat} (h : ∀ j < c, f' j = f j) (k : Nat) :
    packedBit mode f' c k = packedBit mode f c k := by
  funext a b
  cases mode with
  | nonspan => exact laneBit_congr h k a b
  | span | overflow => exact streamBit_congr h k a b

theorem SideHolds.congr {test test' : Nat → Bool} {v v' : Nat → Word} {c : Nat} {m₀ m : Memory 32}
    (h : SideHolds test' v' c m₀ m) (tests : ∀ j < c, test' j = test j) (values : ∀ j < c, v' j = v j) :
    SideHolds test v c m₀ m := by
  have counts : ∀ i ≤ c, countBelow test i = countBelow test' i := fun i hi =>
    countBelow_congr fun j hj => (tests j (hj.trans_le hi)).symm
  refine ⟨fun i hi pass => ?_, fun p hp => h.outside p (counts c le_rfl ▸ hp)⟩
  rw [counts i hi.le, h.entries i hi (tests i hi ▸ pass), values i hi]

/-- The same input packed from two states gives the same codec, as far as the host reads it (R28). -/
theorem Packed.same_codec {s s' t t' : State} {n : Nat} (h : Packed s n t) (h' : Packed s' n t')
    (same : SameInput n s s') : t'.n = t.n ∧ t'.k = t.k ∧ t'.wc = t.wc ∧ t'.oc = t.oc ∧
      ∀ a, entryData .wbuf a t' = entryData .wbuf a t ∧ entryData .ovf a t' = entryData .ovf a t := by
  obtain ⟨n_eq', width', wc_eq', oc_eq', bits', side', -, -⟩ := h'
  rw [same.mode] at width' wc_eq' bits'
  rw [countBelow_congr fun j hj => same.diverted hj] at oc_eq'
  have k := width'.unique (h.width.congr fun j hj => by rw [same.mainField hj])
  rw [packedBit_congr _ fun j hj => same.mainField hj] at bits'
  rw [k] at wc_eq' bits'
  have wc := wc_eq'.trans h.wc_eq.symm
  have oc := oc_eq'.trans h.oc_eq.symm
  have side := side'.congr (fun j hj => same.diverted hj) fun j hj => same.inputWord hj
  rw [wc] at bits'
  refine ⟨BitVec.eq_of_toNat_eq (n_eq'.trans h.n_eq.symm), BitVec.eq_of_toNat_eq k, BitVec.eq_of_toNat_eq wc,
    BitVec.eq_of_toNat_eq oc, fun a => ⟨?_, ?_⟩⟩
  · unfold entryData
    dsimp only
    rw [wc]
    split
    · next live => rw [h.bits.readWbuf_eq bits' live]
    · rfl
  · unfold entryData
    dsimp only
    rw [oc]
    split
    · next live => rw [h.side.readOvf_eq side (h.oc_eq ▸ live)]
    · rfl

/-- Settles O25: both states take the same branch of COMPRESS, and what they pack is the same. -/
theorem compressIgnoresEarlierState : Obligations.CompressIgnoresEarlierState := by
  intro s s' n mode _ sentinel nmax entries
  refine ⟨_, _, rfl, rfl, ?_⟩
  obtain ⟨above, e⟩ | ⟨j, le, hj, negative, before, e⟩ | ⟨rfl, e⟩ | ⟨pos, le, supported, e⟩ := compress_cases n s
  · rw [e, compress_of_over (nmax ▸ above)]
    exact ⟨rfl, rfl, fun h => absurd h (raise_errcode_ne_zero _ _ _)⟩
  · have negative' := (congrArg isNegative (entries j hj)).trans negative
    have before' : ∀ i < j, isNegative (readIbuf s' i) = false := fun i hi =>
      (congrArg isNegative (entries i (hi.trans hj))).trans (before i hi)
    rw [e, compress_of_negative (nmax ▸ le) hj negative' before']
    exact ⟨rfl, rfl, fun h => absurd h (raise_errcode_ne_zero _ _ _)⟩
  · rw [e, compress_zero]
    exact ⟨rfl, rfl, fun _ => ⟨rfl, rfl, rfl, rfl, fun _ => ⟨rfl, rfl⟩⟩⟩
  · have supported' : ∀ i < n, isNegative (readIbuf s' i) = false := fun i hi =>
      (congrArg isNegative (entries i hi)).trans (supported i hi)
    rw [e, compress_of_supported pos (nmax ▸ le) supported']
    exact ⟨rfl, rfl, fun _ => (complete_compressBody_packed le).same_codec
      (complete_compressBody_packed (nmax ▸ le)) ⟨mode, sentinel, entries⟩⟩

end Sys2Proof.Machine
end
section
/-! ## The sequencer registers are no input of a command (R29) -/

namespace Sys2Proof.Machine

/-- `t` and `u` agree but for the sequencer registers, of which they agree on what `part` shows. -/
def Alike {α : Type} (part : Sequencer → α) (t u : State) : Prop := OnlySeq t u ∧ part u.seq = part t.seq

theorem Alike.onlySeq {α : Type} {part : Sequencer → α} {t u : State} (h : Alike part t u) : OnlySeq t u := h.1

theorem Alike.exists_eq {α : Type} {part : Sequencer → α} {t u : State} (h : Alike part t u) :
    ∃ q, u = { t with seq := q } ∧ part q = part t.seq := ⟨u.seq, h⟩

/-- Loops whose bodies keep a relation keep it. -/
theorem forElements_relate {R : State → State → Prop} {body : Nat → State → State}
    (hb : ∀ j t u, R t u → R (body j (setJ j t)) (body j (setJ j u))) (count : Nat) {t u : State} (h : R t u) :
    R (forElements body count t) (forElements body count u) := by
  induction count with
  | zero => exact h
  | succ c ih => exact hb c _ _ ih

/-- R121, R136, R170: a scan sets MAXV before it reads it. -/
theorem scan_alike {f : Nat → State → Word} (hf : ∀ j t q, f j { t with seq := q } = f j t) (start : Word) (n : Nat)
    (s : State) (q : Sequencer) :
    Alike (·.maxv) (forElements (fun j t => raiseMaxv (f j t) t) n (setMaxv start s))
      (forElements (fun j t => raiseMaxv (f j t) t) n (setMaxv start { s with seq := q })) := by
  refine forElements_relate (R := Alike (·.maxv)) (fun j t u h => ?_) n ⟨rfl, rfl⟩
  obtain ⟨q, rfl, maxv⟩ := h.exists_eq
  have value : f j (setJ j { t with seq := q }) = f j (setJ j t) :=
    (hf j t { q with j := BitVec.ofNat 25 j }).trans (hf j t _).symm
  simp only [raiseMaxv_eq, value]
  exact ⟨rfl, by simp only [setMaxv_seq, setJ_seq, maxv]⟩

theorem scanMax_alike (n : Nat) (s : State) (q : Sequencer) :
    Alike (·.maxv) (scanMax n s) (scanMax n { s with seq := q }) :=
  scan_alike (f := fun j t => elementWord (readIbuf t j)) (fun _ _ _ => rfl) 0 n s q

theorem scanFields_alike (n : Nat) (s : State) (q : Sequencer) :
    Alike (·.maxv) (scanFields n s) (scanFields n { s with seq := q }) :=
  scan_alike (f := fun j t => dispatchField (elementWord (readIbuf t j)) t.sentinel) (fun _ _ _ => rfl)
    (synthetic s.sentinel) n s q

theorem clearWords_withSeq (wc : Nat) (s : State) (q : Sequencer) :
    clearWords wc { s with seq := q } = { clearWords wc s with seq := q } := by
  induction wc with
  | zero => rfl
  | succ c ih =>
    show writeWbuf c 0 (clearWords c { s with seq := q }) = { writeWbuf c 0 (clearWords c s) with seq := q }
    rw [ih]; rfl

theorem OnlySeq.exists_eq {t u : State} (h : OnlySeq t u) : ∃ q, u = { t with seq := q } := ⟨u.seq, h⟩

theorem OnlySeq.setCodec {t u : State} (h : OnlySeq t u) (n k wc oc : Nat) :
    OnlySeq (setCodec n k wc oc t) (setCodec n k wc oc u) := by
  obtain ⟨q, rfl⟩ := h.exists_eq; rfl

/-- R138: of the sequencer registers the pack step reads CUR alone. -/
theorem packSpan_alike (v : Word) (k wc : Nat) {t u : State} (h : Alike (·.cur) t u) :
    Alike (·.cur) (packSpan v k wc t) (packSpan v k wc u) := by
  obtain ⟨q, rfl, cur⟩ := h.exists_eq
  have wbuf : (packSpan v k wc { t with seq := q }).wbuf = (packSpan v k wc t).wbuf := by
    simp only [packSpan_wbuf, cur]
  refine ⟨?_, by simp only [packSpan, setCur_seq, cur]⟩
  rw [packSpan_eq v k wc t, packSpan_eq v k wc { t with seq := q }, wbuf]
  rfl

/-- The sequencer registers that a turn of the overflow loop reads: the bit address and the side-array index. -/
def cursors (q : Sequencer) : BitVec 32 × BitVec 24 := (q.cur, q.p)

theorem Alike.cursors_iff {t u : State} : Alike cursors t u ↔ Alike (·.cur) t u ∧ u.seq.p = t.seq.p := by
  simp only [Alike, cursors, Prod.mk.injEq, and_assoc]

theorem packSpan_alike_cursors (v : Word) (k wc : Nat) {t u : State} (h : Alike cursors t u) :
    Alike cursors (packSpan v k wc t) (packSpan v k wc u) := by
  rw [Alike.cursors_iff] at h ⊢
  exact ⟨packSpan_alike v k wc h.1, by rw [packSpan_p, packSpan_p, h.2]⟩

theorem packOverflow_alike (k wc j : Nat) {t u : State} (h : Alike cursors t u) :
    Alike cursors (packOverflow k wc j t) (packOverflow k wc j u) := by
  obtain ⟨q, rfl, same⟩ := h.exists_eq
  obtain ⟨cur, p⟩ := Prod.mk.inj same
  have pushed : ∀ v, Alike cursors (pushOvf v t) (pushOvf v { t with seq := q }) := fun v => by
    unfold pushOvf
    simp only [p]
    exact ⟨rfl, Prod.ext cur rfl⟩
  refine packSpan_alike_cursors _ k wc ?_
  show Alike cursors (if diverts (elementWord (readIbuf t j)) t.sentinel then _ else _)
    (if diverts (elementWord (readIbuf t j)) t.sentinel then _ else _)
  split
  · exact pushed _
  · exact h

theorem Alike.setJ {α : Type} {part : Sequencer → α} {t u : State} (h : Alike part t u)
    (free : ∀ (q : Sequencer) j, part { q with j := j } = part q) (j : Nat) : Alike part (setJ j t) (setJ j u) := by
  obtain ⟨q, rfl, same⟩ := h.exists_eq
  exact ⟨rfl, by simpa only [setJ_seq, free] using same⟩

/-- R84: the body of COMPRESS depends on no sequencer register. -/
theorem compressBody_onlySeq (n : Nat) (s : State) (q : Sequencer) :
    OnlySeq (compressBody n s) (compressBody n { s with seq := q }) := by
  unfold compressBody
  dsimp only
  split
  · obtain ⟨q', scan, maxv⟩ := (scanMax_alike n s q).exists_eq
    unfold compressNonspan
    simp only [scan, maxv, clearWords_withSeq]
    refine OnlySeq.setCodec (forElements_relate (fun j t u h => ?_) n ?_) _ _ _ _
    · obtain ⟨q, rfl⟩ := h.exists_eq; rfl
    · rfl
  · obtain ⟨q', scan, maxv⟩ := (scanMax_alike n s q).exists_eq
    unfold compressSpan
    simp only [scan, maxv, clearWords_withSeq]
    refine (Alike.onlySeq (part := (·.cur)) ?_).setCodec _ _ _ _
    refine forElements_relate (fun j t u h => ?_) n ⟨rfl, rfl⟩
    have value : readIbuf (setJ j u) j = readIbuf (setJ j t) j := by obtain ⟨q, rfl, -⟩ := h.exists_eq; rfl
    rw [value]
    exact packSpan_alike _ _ _ (h.setJ (fun _ _ => rfl) j)
  · obtain ⟨q', scan, maxv⟩ := (scanFields_alike n s q).exists_eq
    unfold compressOverflow
    simp only [scan, maxv, clearWords_withSeq]
    generalize widthOf (scanFields n s).seq.maxv.toNat = k
    have start : Alike cursors (setP 0 (setCur 0 (clearWords (wcSpan (n + 1) k) (scanFields n s))))
        (setP 0 (setCur 0 { clearWords (wcSpan (n + 1) k) (scanFields n s) with seq := q' })) := ⟨rfl, rfl⟩
    have loop := packSpan_alike_cursors (synthetic s.sentinel) k (wcSpan (n + 1) k)
      (forElements_relate (body := packOverflow k (wcSpan (n + 1) k))
        (fun j t u h => packOverflow_alike _ _ j (h.setJ (fun _ _ => rfl) j)) n start)
    rw [(Prod.mk.inj loop.2).2]
    exact loop.1.setCodec _ _ _ _

theorem complete_of_onlySeq {t u : State} (h : OnlySeq t u) : complete u = complete t := by
  obtain ⟨q, rfl⟩ := h.exists_eq; rfl

theorem config_onlySeq (modef mbf : Nat) (s : State) (q : Sequencer) :
    OnlySeq (config modef mbf s) (config modef mbf { s with seq := q }) := by
  unfold config
  split
  · rfl
  · rfl
  · split <;> rfl
  · rfl

theorem compress_onlySeq (n : Nat) (s : State) (q : Sequencer) :
    OnlySeq (compress n s) (compress n { s with seq := q }) := by
  obtain ⟨above, e⟩ | ⟨j, le, hj, negative, before, e⟩ | ⟨rfl, e⟩ | ⟨pos, le, supported, e⟩ := compress_cases n s
  · rw [e, compress_of_over (s := { s with seq := q }) above]; rfl
  · rw [e, compress_of_negative (s := { s with seq := q }) le hj negative before]; rfl
  · rw [e, compress_zero]; rfl
  · rw [e, compress_of_supported (s := { s with seq := q }) pos le supported,
      complete_of_onlySeq (compressBody_onlySeq n s q)]
    rfl

theorem get_of_le {i : Nat} {s : State} (h : s.n.toNat ≤ i) : get i s = raise .invalidIndex (BitVec.ofNat 32 i) s :=
  if_pos h

theorem element_withSeq (s : State) (q : Sequencer) (i : Nat) : element { s with seq := q } i = element s i := by
  unfold element; rfl

theorem get_onlySeq (i : Nat) (s : State) (q : Sequencer) : OnlySeq (get i s) (get i { s with seq := q }) := by
  obtain ⟨le, e⟩ | ⟨lt, e⟩ := get_cases i s
  · rw [e, get_of_le (s := { s with seq := q }) le]; rfl
  · rw [e, get_of_lt (s := { s with seq := q }) lt, element_withSeq]; rfl

/-- R178: the body of DECOMPRESS sets P before it reads it, and reads no other sequencer register. -/
theorem decompressBody_onlySeq (s : State) (q : Sequencer) :
    OnlySeq (decompressBody s) (decompressBody { s with seq := q }) := by
  unfold decompressBody
  dsimp only
  split
  · exact forElements_relate (R := OnlySeq) (fun j t u h => by obtain ⟨q, rfl⟩ := h.exists_eq; rfl) _ rfl
  · exact forElements_relate (R := OnlySeq) (fun j t u h => by obtain ⟨q, rfl⟩ := h.exists_eq; rfl) _ rfl
  · refine (forElements_relate (R := Alike (·.p)) (fun j t u h => ?_) _ (t := setP 0 s)
      (u := setP 0 { s with seq := q }) ⟨rfl, rfl⟩).1
    obtain ⟨q, rfl, p⟩ := h.exists_eq
    have p : q.p = t.seq.p := p
    show Alike (·.p) (if getSpan t.wbuf j t.k.toNat = t.sentinel then _ else _)
      (if getSpan t.wbuf j t.k.toNat = t.sentinel then _ else _)
    split
    · show Alike (·.p) (setP (t.seq.p.toNat + 1) (writeObuf j (readOvf t.ovf t.seq.p.toNat) _))
        (setP (q.p.toNat + 1) (writeObuf j (readOvf t.ovf q.p.toNat) _))
      rw [p]
      exact ⟨rfl, rfl⟩
    · exact ⟨rfl, p⟩

theorem decompress_onlySeq (s : State) (q : Sequencer) :
    OnlySeq (decompress s) (decompress { s with seq := q }) := by
  obtain ⟨q', e⟩ := (decompressBody_onlySeq s q).exists_eq
  rw [decompress_eq, decompress_eq, e]
  rfl

/-- R29: a command's result depends on no sequencer register. -/
theorem exec_onlySeq (i : Instr) (s : State) (q : Sequencer) :
    ∃ t u, exec i s = .next t ∧ exec i { s with seq := q } = .next u ∧ OnlySeq t u := by
  refine ⟨_, _, exec_eq i s, exec_eq i _, ?_⟩
  cases i with
  | config modef mbf => exact config_onlySeq modef mbf s q
  | compress n => exact compress_onlySeq n s q
  | get j => exact get_onlySeq j s q
  | decompress => exact decompress_onlySeq s q
  | size => rfl

/-- Settles O42: every command sets the sequencer registers before it reads them, and completion clears them. -/
theorem sequencerIsNoInput : Obligations.SequencerIsNoInput := by
  intro i s q
  obtain ⟨t, u, ht, hu, same⟩ := exec_onlySeq i s q
  refine ⟨t, u, ht, hu, same, fun success => ?_⟩
  obtain ⟨_, rfl⟩ | ⟨e, info, rfl⟩ := exec_completes_or_raises ht
  · rfl
  · exact absurd success (raise_errcode_ne_zero _ _ _)

end Sys2Proof.Machine
end
section
/-! ## Reset and the host port (R12, R27, R28, R215, R230) -/

namespace Sys2Proof.Machine

/-- One move of the host while the block is idle. -/
theorem step_of_idle {s : State} {m : HostMove} {rest : List HostMove} (idle : s.busy = false)
    (moves : s.moves = m :: rest) :
    step s = match m with
      | .reset => .next (resetEvent { s with moves := rest })
      | .readReg r => .next { s with moves := rest, answer := some (.word (regWord r.toNat s)) }
      | .writeReg r w => if r = 0 then issue w { s with moves := rest } else .next { s with moves := rest }
      | .readEntry space a => .next { s with moves := rest, answer := some (entryData space a.toNat s) }
      | .writeIbuf j v => .next (hostWriteIbuf j.toNat v { s with moves := rest }) := by
  have turn : step s = hostMove m { s with moves := rest } := by unfold step hostTurn; rw [moves]
  rw [turn, hostMove_idle m { s with moves := rest } idle]
  cases m <;> rfl

/-- R5: the open parameter is in its range. -/
theorem config_nmax_toNat : Config.nmax.toNat = Config.nmaxPred.val + 1 := by
  have := Config.nmaxPred.isLt
  rw [Config.nmax, BitVec.toNat_ofNat, Nat.mod_eq_of_lt (by omega)]

theorem config_nmax_range : 1 ≤ Config.nmax.toNat ∧ Config.nmax.toNat ≤ 2 ^ 24 - 1 := by
  have := Config.nmaxPred.isLt
  rw [config_nmax_toNat]
  omega

/-- Settles O10: the reset state is written out, and the parameter is one above an index below 2^24 - 1. -/
theorem resetStateRegisters : Obligations.ResetStateRegisters :=
  ⟨rfl, rfl, rfl, rfl, rfl, rfl, rfl, rfl, rfl, rfl, rfl, rfl, rfl, config_nmax_range⟩

/-- R30: the empty codec of the reset state meets the register clauses for every legal NMAX. -/
theorem resetAt_regInv {nmax : BitVec 24} (pos : 1 ≤ nmax.toNat) : RegInv (State.resetAt nmax) where
  idle := rfl
  nmax_pos := pos
  n_le := Nat.zero_le _
  olen_le := Nat.zero_le _
  k_zero := iff_of_true rfl rfl
  wc_zero := iff_of_true rfl rfl
  oc_zero := fun _ => rfl
  config := ⟨fun overflow => (by cases overflow), fun _ => ⟨rfl, rfl, rfl⟩⟩
  width := fun nonempty => absurd rfl nonempty
  counts := fun nonempty => absurd rfl nonempty

/-- Settles O36: the codec of the reset state is empty and its memories list nothing. -/
theorem resetMeetsInvariant : Obligations.ResetMeetsInvariant :=
  ⟨⟨resetAt_regInv config_nmax_range.1, fun _ nonempty => absurd rfl nonempty,
      fun a ha => absurd ha (Nat.not_lt_zero a)⟩,
    resetAt_memories_wf _, rfl, rfl, rfl, rfl⟩

/-- R21: STATUS of an idle block is its error code in bits 11:8. -/
theorem statusWord_idle_toNat (errcode : BitVec 4) : (statusWord false errcode).toNat = errcode.toNat * 256 := by
  have := errcode.isLt
  rw [statusWord, BitVec.toNat_ofNat, Bool.toNat_false, Nat.mod_eq_of_lt (by omega), Nat.add_zero]

/-- A register narrower than a word is read as its value. -/
theorem toNat_setWidth_word {w : Nat} (x : BitVec w) (h : w ≤ 32) : (x.setWidth 32).toNat = x.toNat := by
  rw [BitVec.toNat_setWidth]
  exact Nat.mod_eq_of_lt (x.isLt.trans_le (Nat.pow_le_pow_right (by decide) h))

/-- Settles O43: an idle read answers the register's word, whose value is the register's. -/
theorem hostRegisterReads : Obligations.HostRegisterReads := by
  intro s r rest idle moves
  refine ⟨regWord r.toNat s, step_of_idle idle moves, ?_⟩
  generalize r.toNat = index
  match index with
  | 0 | 2 | 3 | 6 => rfl
  | 1 =>
    show (statusWord s.busy s.errcode).toNat = s.errcode.toNat * 256
    rw [idle, statusWord_idle_toNat]
  | 4 => exact toNat_setWidth_word (modeCode s.mode) (by decide)
  | 5 => exact toNat_setWidth_word s.mainBits (by decide)
  | 7 => exact toNat_setWidth_word s.n (by decide)
  | 8 => exact toNat_setWidth_word s.k (by decide)
  | 9 => exact toNat_setWidth_word s.wc (by decide)
  | 10 => exact toNat_setWidth_word s.oc (by decide)
  | 11 => exact toNat_setWidth_word s.olen (by decide)
  | 12 => exact toNat_setWidth_word s.nmax (by decide)
  | _ + 13 => rfl

/-- Settles O44: an idle read of a memory answers `entryData`, which is the live entry or 0. -/
theorem hostMemoryReads : Obligations.HostMemoryReads := by
  intro s space a rest idle moves
  refine ⟨entryData space a.toNat s, step_of_idle idle moves, ?_⟩
  cases space <;> rfl

/-- Settles O45: an idle write of a register other than CMD only uses up the move. -/
theorem readOnlyRegisterWriteIgnored : Obligations.ReadOnlyRegisterWriteIgnored := by
  intro s r w rest idle other moves
  rw [step_of_idle idle moves]
  exact if_neg other

/-- R28: what IBUF reads as after a host write. -/
theorem readIbuf_hostWriteIbuf (j : Nat) (v : Element) (s : State) (i : Nat) :
    readIbuf (hostWriteIbuf j v s) i = if i = j ∧ j < s.nmax.toNat then v else readIbuf s i := by
  unfold hostWriteIbuf
  split
  · next below =>
    unfold readIbuf
    dsimp only
    rw [Memory.lookup_store]
    by_cases same : i = j <;> simp [same, below]
  · next beyond => simp [beyond]

/-- Settles O46: an idle write of IBUF stores the value below NMAX and nothing beyond it. -/
theorem ibufWriteThenRead : Obligations.IbufWriteThenRead := by
  intro s j v rest idle moves
  refine ⟨_, step_of_idle idle moves, ?_, fun i => readIbuf_hostWriteIbuf j.toNat v { s with moves := rest } i⟩
  unfold hostWriteIbuf
  split <;> rfl

end Sys2Proof.Machine
end
section
/-! ## The canonical form of the memories (log entry 10)

A step changes a memory only through `Memory.store`, so the canonical form is a frame of every operation: reflexive
and transitive, kept by the writes of Laws/Memory, by the loops and by the commands made of them. -/

namespace Sys2Proof.Machine

/-- The memories of `t` are in canonical form when those of `s` are. -/
def KeepsWf (s t : State) : Prop := MemoriesWf s → MemoriesWf t

theorem KeepsWf.refl (s : State) : KeepsWf s s := id

theorem KeepsWf.trans {s t u : State} (h : KeepsWf s t) (g : KeepsWf t u) : KeepsWf s u := g ∘ h

theorem KeepsWf.setCur {s t : State} (h : KeepsWf s t) (c : Nat) : KeepsWf s (setCur c t) := h

theorem KeepsWf.setP {s t : State} (h : KeepsWf s t) (p : Nat) : KeepsWf s (setP p t) := h

theorem KeepsWf.setCodec {s t : State} (h : KeepsWf s t) (n k wc oc : Nat) : KeepsWf s (setCodec n k wc oc t) := h

theorem OnlySeq.keepsWf {s t : State} (h : OnlySeq s t) : KeepsWf s t := by
  obtain ⟨q, rfl⟩ := h.exists_eq
  exact id

theorem forElements_keepsWf (body : Nat → State → State) (hb : ∀ j t, KeepsWf t (body j t)) (count : Nat)
    (s : State) : KeepsWf s (forElements body count s) :=
  forElements_induct (fun _ t => KeepsWf s t) body count s (.refl s) fun j t _ h => h.trans (hb j (setJ j t))

/-! ### COMPRESS -/

theorem clearWords_keepsWf (wc : Nat) (s : State) : KeepsWf s (clearWords wc s) :=
  forEach_frame .refl (fun _ _ _ => .trans) _ (fun a t => writeWbuf_wf a 0 t) wc s

/-- R138: a field is one OR-write, or two when it crosses into a word below wc. -/
theorem orField_keepsWf (v : Word) (k wc : Nat) (s : State) : KeepsWf s (orField v k wc s) := by
  intro wf
  unfold orField
  dsimp only
  split
  · exact orWbuf_wf _ _ _ (orWbuf_wf _ _ s wf)
  · exact orWbuf_wf _ _ s wf

theorem packSpan_keepsWf (v : Word) (k wc : Nat) (s : State) : KeepsWf s (packSpan v k wc s) :=
  orField_keepsWf v k wc (setAddr s.seq.cur.toNat s)

theorem pushOvf_keepsWf (v : Word) (s : State) : KeepsWf s (pushOvf v s) := writeOvf_wf s.seq.p.toNat v s

theorem packOverflow_keepsWf (k wc j : Nat) (s : State) : KeepsWf s (packOverflow k wc j s) := by
  unfold packOverflow
  dsimp only
  split
  · exact (pushOvf_keepsWf _ s).trans (packSpan_keepsWf _ k wc _)
  · exact packSpan_keepsWf _ k wc s

/-- R121, R136, R170: scan, clear, then a loop of packing turns; in mode 2 the synthetic field comes last. -/
theorem compressBody_keepsWf (n : Nat) (s : State) : KeepsWf s (compressBody n s) := by
  unfold compressBody
  split
  · exact (((scanMax_onlySeq n s).keepsWf.trans (clearWords_keepsWf _ _)).trans
      (forElements_keepsWf (packNonspan _) (fun _ t => orWbuf_wf _ _ t) n _)).setCodec _ _ _ _
  · exact (((scanMax_onlySeq n s).keepsWf.trans ((clearWords_keepsWf _ _).setCur 0)).trans
      (forElements_keepsWf _ (fun _ t => packSpan_keepsWf _ _ _ t) n _)).setCodec _ _ _ _
  · exact ((((scanFields_onlySeq n s).keepsWf.trans (((clearWords_keepsWf _ _).setCur 0).setP 0)).trans
      (forElements_keepsWf _ (packOverflow_keepsWf _ _) n _)).trans (packSpan_keepsWf _ _ _ _)).setCodec _ _ _ _

theorem compress_keepsWf (n : Nat) (s : State) : KeepsWf s (compress n s) := by
  obtain ⟨-, e⟩ | ⟨_, -, -, -, -, e⟩ | ⟨-, e⟩ | ⟨-, -, -, e⟩ := compress_cases n s
  · rw [e]; exact id
  · rw [e]; exact id
  · rw [e]; exact id
  · rw [e]; exact compressBody_keepsWf n s

/-! ### The other commands -/

theorem config_keepsWf (modef mbf : Nat) (s : State) : KeepsWf s (config modef mbf s) := by
  obtain ⟨-, e⟩ | ⟨-, e⟩ | ⟨-, -, e⟩ | ⟨-, -, -, e⟩ | ⟨-, e⟩ := config_cases modef mbf s <;> rw [e] <;> exact id

theorem get_keepsWf (i : Nat) (s : State) : KeepsWf s (get i s) := by
  obtain ⟨-, e⟩ | ⟨-, e⟩ := get_cases i s <;> rw [e] <;> exact id

/-- R178: a turn writes one element of OBUF, whichever array it comes from. -/
theorem unpackOverflow_keepsWf (j : Nat) (s : State) : KeepsWf s (unpackOverflow j s) := by
  unfold unpackOverflow
  dsimp only
  split
  · exact writeObuf_wf j _ (seekSpan j s.k.toNat s)
  · exact writeObuf_wf j _ (seekSpan j s.k.toNat s)

/-- R124, R154, R178: a loop of writes of OBUF. -/
theorem decompressBody_keepsWf (s : State) : KeepsWf s (decompressBody s) := by
  unfold decompressBody
  split
  · exact forElements_keepsWf _ (fun j t => writeObuf_wf j _ t) _ s
  · exact forElements_keepsWf _ (fun j t => writeObuf_wf j _ (seekSpan j t.k.toNat t)) _ s
  · exact forElements_keepsWf unpackOverflow unpackOverflow_keepsWf _ (setP 0 s)

theorem exec_keepsWf {i : Instr} {s t : State} (h : exec i s = .next t) : KeepsWf s t := by
  rw [exec_eq] at h
  injection h with h
  subst h
  cases i with
  | config modef mbf => exact config_keepsWf modef mbf s
  | compress n => exact compress_keepsWf n s
  | get j => exact get_keepsWf j s
  | decompress => exact decompressBody_keepsWf s
  | size => exact .refl s

/-! ### The step -/

/-- R216: the reset event leaves the cells of WBUF, OVF and OBUF, and lists nothing in IBUF. -/
theorem resetEvent_keepsWf (s : State) : KeepsWf s (resetEvent s) := fun ⟨_, others⟩ => ⟨rfl, others⟩

/-- Settles O39: every case of a step is a frame of the canonical form. -/
theorem stepKeepsCanonicalMemories : Obligations.StepKeepsCanonicalMemories := by
  intro s t wf h
  obtain ⟨-, -, rfl⟩ | ⟨_, rest, -, ⟨-, rfl⟩ | ⟨_, rfl⟩ | ⟨-, rfl⟩ | ⟨_, _, -, -, rfl⟩ |
    ⟨_, _, -, -, -, command⟩ | ⟨_, _, -, -, -, rfl⟩⟩ := step_cases h
  · exact wf
  · exact resetEvent_keepsWf { s with moves := rest } wf
  · exact wf
  · exact wf
  · exact hostWriteIbuf_wf _ _ { s with moves := rest } wf
  · exact exec_keepsWf command wf
  · exact wf

end Sys2Proof.Machine
end
section
/-! ## The decoder, the encoder and the opcode table (R61 to R66), and the assembler's words (R68) -/

namespace Sys2Proof

/-! ### Rows and operands -/

/-- R65: the decoder's test for the row of a command, on the fields the row fixes. The operands do not matter. -/
def RowTest (w : Word) : Instr → Prop
  | .config _ _ => bits w 31 28 = 1 ∧ bits w 27 10 = 0 ∧ bits w 7 6 = 0
  | .compress _ => bits w 31 28 = 2 ∧ bits w 27 24 = 0
  | .get _ => bits w 31 28 = 3 ∧ bits w 27 24 = 0
  | .decompress => bits w 31 28 = 4 ∧ bits w 27 0 = 0
  | .size => bits w 31 28 = 5 ∧ bits w 27 0 = 0

/-- R62: the command of the same row whose operands are the fields of a word. -/
def readOperands (w : Word) : Instr → Instr
  | .config _ _ => .config (bits w 9 8) (bits w 5 0)
  | .compress _ => .compress (bits w 23 0)
  | .get _ => .get (bits w 23 0)
  | .decompress => .decompress
  | .size => .size

/-- R62: a field of the word fits in the operand's range. -/
theorem readOperands_wellFormed (w : Word) (i : Instr) : (readOperands w i).wellFormed = true := by
  cases i <;> simp only [readOperands, Instr.wellFormed, bits, Bool.and_eq_true, decide_eq_true_eq] <;> omega

/-- R61: in a word of a row, the fixed fields and the operands are all the bits there are. -/
theorem encode_readOperands {w : Word} {i : Instr} (h : RowTest w i) : encode (readOperands w i) = w := by
  have := w.isLt
  apply BitVec.eq_of_toNat_eq
  cases i <;> simp only [RowTest, readOperands, encode, bits, BitVec.toNat_ofNat] at h ⊢ <;> omega

/-- R61: the encoding of a well-formed command is a word of its row. -/
theorem rowTest_encode {i : Instr} (h : i.wellFormed = true) : RowTest (encode i) i := by
  cases i <;> simp only [RowTest, encode, bits, Instr.wellFormed, Bool.and_eq_true, decide_eq_true_eq,
    BitVec.toNat_ofNat] at h ⊢ <;> omega

/-- R61: no operand of a well-formed command is cut by its field. -/
theorem readOperands_encode {i : Instr} (h : i.wellFormed = true) : readOperands (encode i) i = i := by
  cases i <;> simp only [readOperands, encode, bits, Instr.wellFormed, Bool.and_eq_true, decide_eq_true_eq,
    BitVec.toNat_ofNat, Instr.config.injEq, Instr.compress.injEq, Instr.get.injEq] at h ⊢ <;> omega

/-! ### The decoder in these terms -/

/-- R65: the five tests fix different opcodes, so the order in which the decoder makes them does not matter. -/
theorem decode_of_rowTest {w : Word} {i : Instr} (h : RowTest w i) : decode w = .command (readOperands w i) := by
  cases i <;> simp only [RowTest] at h <;> simp [decode, readOperands, h]

/-- R65: what the decoder's answer says of the word. -/
theorem decode_cases (w : Word) :
    (∃ i, RowTest w i ∧ decode w = .command (readOperands w i)) ∨ ((∀ i, ¬ RowTest w i) ∧ decode w = .illegal w) := by
  by_cases row : ∃ i, RowTest w i
  · obtain ⟨i, h⟩ := row
    exact .inl ⟨i, h, decode_of_rowTest h⟩
  · have none := not_exists.1 row
    refine .inr ⟨none, ?_⟩
    exact (if_neg (none (.config 0 0))).trans <| (if_neg (none (.compress 0))).trans <|
      (if_neg (none (.get 0))).trans <| (if_neg (none .decompress)).trans <| if_neg (none .size)

/-- A row's test does not read the operands of the command it is given. -/
theorem rowTest_readOperands (w v : Word) (i : Instr) : RowTest w (readOperands v i) ↔ RowTest w i := by
  cases i <;> rfl

theorem rowTest_of_decode {w : Word} {i : Instr} (h : decode w = .command i) : RowTest w i := by
  obtain ⟨j, row, e⟩ | ⟨-, e⟩ := decode_cases w
  · rw [e, Decoded.command.injEq] at h
    exact h ▸ (rowTest_readOperands w w j).2 row
  · rw [e] at h; cases h

theorem decode_eq_illegal_iff (w : Word) : decode w = .illegal w ↔ ∀ i, ¬ RowTest w i := by
  constructor
  · intro h i row
    rw [decode_of_rowTest row] at h
    cases h
  · intro none
    obtain ⟨i, row, -⟩ | ⟨-, e⟩ := decode_cases w
    · exact absurd row (none i)
    · exact e

/-- Settles O3: the encoding passes its row's test, and its fields are the operands. -/
theorem encodeThenDecode : Obligations.EncodeThenDecode := by
  intro i wf
  rw [decode_of_rowTest (rowTest_encode wf), readOperands_encode wf]

/-- Settles O4: a word that passes a row's test is the encoding of the fields read from it. -/
theorem decodeThenEncode : Obligations.DecodeThenEncode := by
  intro w i h
  have row := rowTest_of_decode h
  have operands : i = readOperands w i := by
    rw [decode_of_rowTest row, Decoded.command.injEq] at h
    exact h.symm
  rw [operands]
  exact ⟨readOperands_wellFormed w i, encode_readOperands row⟩

/-! ### The match-and-mask table (R64) -/

theorem and_mask_32 (w : Word) : w &&& 0xFFFFFFFF = w := BitVec.and_allOnes

/-- R64, R65: the table and the decoder test the same fields. -/
theorem matchesRow_iff (w : Word) (i : Instr) : w &&& rowMask i = rowMatch i ↔ RowTest w i := by
  have := w.isLt
  cases i <;> simp only [rowMask, rowMatch, RowTest, Laws.MatchRow.and_mask_config, Laws.MatchRow.and_mask_24,
    and_mask_32, ← BitVec.toNat_inj, BitVec.toNat_ofNat, BitVec.reduceToNat, bits] <;> omega

/-- A word that matches no row of the table, row by row. -/
theorem no_rowTest_iff (w : Word) :
    (∀ i, ¬ RowTest w i) ↔
      w &&& 0xFFFFFCC0 ≠ 0x10000000 ∧ w &&& 0xFF000000 ≠ 0x20000000 ∧ w &&& 0xFF000000 ≠ 0x30000000 ∧
        w &&& 0xFFFFFFFF ≠ 0x40000000 ∧ w &&& 0xFFFFFFFF ≠ 0x50000000 := by
  simp only [← matchesRow_iff]
  constructor
  · intro none
    exact ⟨none (.config 0 0), none (.compress 0), none (.get 0), none .decompress, none .size⟩
  · rintro ⟨config, compress, get, decompress, size⟩ i
    cases i with
    | config _ _ => exact config
    | compress _ => exact compress
    | get _ => exact get
    | decompress => exact decompress
    | size => exact size

/-- R64, R65: the word of a row decodes to the row's command with the word's operands. -/
theorem decode_of_matchesRow {w : Word} (i : Instr) (h : w &&& rowMask i = rowMatch i) :
    decode w = .command (readOperands w i) := decode_of_rowTest ((matchesRow_iff w i).1 h)

theorem matchesRow_of_decode {w : Word} {i : Instr} (h : decode w = .command i) : w &&& rowMask i = rowMatch i :=
  (matchesRow_iff w i).2 (rowTest_of_decode h)

/-- Settles O2: row by row, the table's test is the decoder's. -/
theorem decodeMatchesOpcodeTable : Obligations.DecodeMatchesOpcodeTable := by
  intro w
  refine ⟨⟨fun h => ⟨_, _, decode_of_matchesRow (.config 0 0) h⟩, ?_⟩,
    ⟨fun h => ⟨_, decode_of_matchesRow (.compress 0) h⟩, ?_⟩, ⟨fun h => ⟨_, decode_of_matchesRow (.get 0) h⟩, ?_⟩,
    ⟨decode_of_matchesRow .decompress, matchesRow_of_decode⟩, ⟨decode_of_matchesRow .size, matchesRow_of_decode⟩,
    ((decode_eq_illegal_iff w).trans (no_rowTest_iff w)).symm⟩
  · rintro ⟨_, _, h⟩; exact matchesRow_of_decode h
  · rintro ⟨_, h⟩; exact matchesRow_of_decode h
  · rintro ⟨_, h⟩; exact matchesRow_of_decode h

/-- Settles O1: the decoder evaluated on each of the words. -/
theorem decodeSampleWords : Obligations.DecodeSampleWords := by
  unfold Obligations.DecodeSampleWords
  decide

/-! ### An illegal word on CMD (R66, R197) -/

open Machine in
/-- R197: raising an error from a block that was idle before the acceptance changes ERRCODE and ERRINFO only. -/
theorem raise_accepted (e : ErrorKind) (info : Word) (s : State) (idle : s.busy = false) :
    raise e info { s with busy := true } = { s with errcode := errorCode e, errinfo := info } := by
  simp only [raise, idle]

/-- Settles O7: the word decodes as illegal, and the issue raises IllegalCommand with it. -/
theorem illegalWordReported : Obligations.IllegalWordReported := by
  intro s w idle config compress get decompress size
  have illegal : decode w = .illegal w := by
    rw [decode_eq_illegal_iff, no_rowTest_iff, and_mask_32]
    exact ⟨config, compress, get, decompress, size⟩
  rw [Machine.hostMove_idle _ s idle]
  simp only [if_true, Machine.issue, illegal, raise_accepted _ w s idle, Machine.errorCode]

/-! ### The assembler (R68) -/

/-- R68: a line that is accepted exactly for operands in a range gives its word there and is refused elsewhere. -/
theorem assemble_spec {l : AsmLine} {x : Nat} {inRange outside : Prop} (accepts : l.wellFormed = true ↔ inRange)
    (excluded : outside → ¬ inRange) (small : inRange → x < 2 ^ 32)
    (word : l.wellFormed = true → assemble l = some (BitVec.ofNat 32 x)) :
    (inRange → ∃ w, assemble l = some w ∧ w.toNat = x) ∧ (outside → assemble l = none) := by
  refine ⟨fun h => ⟨_, word (accepts.2 h), ?_⟩, fun h => if_neg fun wf => excluded h (accepts.1 wf)⟩
  rw [BitVec.toNat_ofNat, Nat.mod_eq_of_lt (small h)]

/-- Settles O5: line by line, the range of the table is the assembler's, and the word fits in 32 bits. -/
theorem assemblerWords : Obligations.AssemblerWords := by
  refine ⟨rfl, rfl, rfl, rfl, fun mb => ?_, fun modef mbf => ?_, fun n => ?_, fun i => ?_, fun v => ?_⟩
  · exact assemble_spec decide_eq_true_iff (by omega) (by omega) fun wf => if_pos wf
  · exact assemble_spec (by simp [AsmLine.wellFormed]) (by omega) (by omega) fun wf => if_pos wf
  · exact assemble_spec decide_eq_true_iff (by omega) (by omega) fun wf => if_pos wf
  · exact assemble_spec decide_eq_true_iff (by omega) (by omega) fun wf => if_pos wf
  · exact assemble_spec decide_eq_true_iff (by omega) (by omega) fun wf => if_pos wf

end Sys2Proof
end
section
/-! ## A step of an idle block (R80, R81, R203, R230) -/

namespace Sys2Proof.Machine

theorem step_of_moves {s : State} {m : HostMove} {rest : List HostMove} (moves : s.moves = m :: rest) :
    step s = hostMove m { s with moves := rest } := by
  unfold step hostTurn; rw [moves]

/-- R230: an idle block with no host move left holds its state. -/
theorem step_of_no_moves {s : State} (idle : s.busy = false) (moves : s.moves = []) : step s = .next s := by
  unfold step hostTurn; rw [moves]; simp [idle]

theorem issue_of_command {w : Word} {i : Instr} (decoded : decode w = .command i) (s : State) :
    issue w s = exec i { s with busy := true } := by
  unfold issue; rw [decoded]

/-- R66, R203: a command word and an illegal word alike answer a next state. -/
theorem issue_answers (w : Word) (s : State) : ∃ t, issue w s = .next t := by
  unfold issue
  split
  · exact ⟨_, exec_eq _ _⟩
  · exact ⟨_, rfl⟩

/-- R225: every move of the host is allowed while the block is idle. -/
theorem hostMove_answers (m : HostMove) {s : State} (idle : s.busy = false) : ∃ t, hostMove m s = .next t := by
  rw [hostMove_idle m s idle]
  cases m with
  | reset | readReg | readEntry | writeIbuf => exact ⟨_, rfl⟩
  | writeReg r w =>
    dsimp only
    split
    · exact issue_answers w s
    · exact ⟨_, rfl⟩

theorem step_answers {s : State} (idle : s.busy = false) : ∃ t, step s = .next t := by
  cases moves : s.moves with
  | nil => exact ⟨s, step_of_no_moves idle moves⟩
  | cons m rest => rw [step_of_moves moves]; exact hostMove_answers m idle

/-- Settles O8: every move of an idle block is answered, and no step makes it busy. -/
theorem idleBlockNeverStops : Obligations.IdleBlockNeverStops := fun _ idle =>
  have ⟨t, h⟩ := step_answers idle
  ⟨⟨t, h, step_idle idle h⟩, step_of_no_moves idle⟩

/-- R80, R81: a command word written to CMD while the block is idle is executed. -/
theorem step_of_command {s : State} {w : Word} {rest : List HostMove} {i : Instr} (idle : s.busy = false)
    (moves : s.moves = .writeReg 0 w :: rest) (decoded : decode w = .command i) :
    step s = exec i { s with moves := rest, busy := true } :=
  (step_of_idle idle moves).trans (issue_of_command decoded _)

theorem withFetchWord_moves (s : State) (w : Word) :
    (s.withFetchWord 32 w.toNat).moves = .writeReg 0 w :: s.moves := by
  simp [State.withFetchWord, Nat.mod_eq_of_lt w.isLt]

/-- Settles O6: the host's turn is its next move, and an accepted command word is issued. -/
theorem stepRunsDecodedCommand : Obligations.StepRunsDecodedCommand :=
  ⟨fun _ _ _ moves => step_of_moves moves,
    fun _ _ _ _ idle moves decoded => step_of_command idle moves decoded,
    fun s w _ decoded => step_of_command rfl (withFetchWord_moves s w) decoded⟩

end Sys2Proof.Machine
end
section
/-! ## What CONFIG and COMPRESS write (R83, R84) -/

namespace Sys2Proof.Machine

theorem SameOutside.refl (s : State) : SameOutside s s := ⟨rfl, fun _ => rfl, rfl, rfl, rfl⟩

theorem SameResults.refl (s : State) : SameResults s s := ⟨rfl, rfl, fun _ => rfl⟩

/-- R28: with WC, OC and OLEN 0 every live range is empty. -/
theorem entryData_of_empty {t : State} (wc : t.wc = 0) (oc : t.oc = 0) (olen : t.olen = 0) (a : Nat) :
    entryData .wbuf a t = .word 0 ∧ entryData .ovf a t = .word 0 ∧ entryData .obuf a t = .word 0 := by
  simp [entryData, wc, oc, olen]

/-- R83: whatever layout a successful CONFIG chooses, it leaves the empty codec and touches nothing else. -/
theorem configure_empties (mode : Mode) (mainBits : Nat) (sentinel : Word) (s : State) :
    let t := complete (configure mode mainBits sentinel s)
    t.n = 0 ∧ t.k = 0 ∧ t.wc = 0 ∧ t.oc = 0 ∧ t.olen = 0 ∧ t.res = 0 ∧
      SameOutside s t ∧ SameEntries s.wbuf t.wbuf ∧ SameEntries s.ovf t.ovf ∧ SameEntries s.obuf t.obuf ∧
      ∀ a, entryData .wbuf a t = .word 0 ∧ entryData .ovf a t = .word 0 ∧ entryData .obuf a t = .word 0 :=
  ⟨rfl, rfl, rfl, rfl, rfl, rfl, .refl s, fun _ => rfl, fun _ => rfl, fun _ => rfl, entryData_of_empty rfl rfl rfl⟩

/-- Settles O14: the four codes of MODEF, the third split by the range of MBF. -/
theorem configChoosesLayout : Obligations.ConfigChoosesLayout := by
  intro s modef mbf small _
  refine ⟨config modef mbf s, rfl, ?_⟩
  obtain ⟨rfl, e⟩ | ⟨rfl, e⟩ | ⟨rfl, outside, e⟩ | ⟨rfl, one, top, e⟩ | ⟨three, e⟩ := config_cases modef mbf s
  · rw [e, if_neg (by decide), if_neg (by simp)]
    exact ⟨completed_complete _, rfl, rfl, rfl, configure_empties _ _ _ s⟩
  · rw [e, if_neg (by decide), if_neg (by simp)]
    exact ⟨completed_complete _, rfl, rfl, rfl, configure_empties _ _ _ s⟩
  · rw [e, if_neg (by decide), if_pos ⟨rfl, outside⟩]
    rfl
  · have mainBits : (BitVec.ofNat 6 mbf).toNat = mbf := by rw [BitVec.toNat_ofNat, Nat.mod_eq_of_lt (by omega)]
    rw [e, if_neg (by decide), if_neg (by omega)]
    exact ⟨completed_complete _, rfl, mainBits, mask_toNat top, configure_empties _ _ _ s⟩
  · obtain rfl : modef = 3 := by omega
    rw [e, if_pos rfl]
    rfl

/-- R84: COMPRESS writes N, K, WC, OC, WBUF, OVF, the flags and the sequencer registers only. -/
theorem compress_eq (n : Nat) (s : State) :
    compress n s =
      { s with busy := false, errcode := (compress n s).errcode, errinfo := (compress n s).errinfo,
               n := (compress n s).n, k := (compress n s).k, wc := (compress n s).wc, oc := (compress n s).oc,
               wbuf := (compress n s).wbuf, ovf := (compress n s).ovf, seq := (compress n s).seq } := by
  obtain ⟨-, e⟩ | ⟨_, -, -, -, -, e⟩ | ⟨-, e⟩ | ⟨-, le, -, e⟩ := compress_cases n s
  · rw [e]; rfl
  · rw [e]; rfl
  · rw [e]; rfl
  · have obuf : (compressBody n s).obuf = s.obuf := (complete_compressBody_packed le).obuf
    rw [e, compressBody_eq, obuf]; rfl

/-- R23, R25, D18: no command changes an entry at or beyond the live ranges it leaves. -/
theorem CodecEffect.same_outside_live {s t : State} (h : CodecEffect s t) :
    (∀ a, t.wc.toNat ≤ a → Memory.lookup t.wbuf a = Memory.lookup s.wbuf a) ∧
      ∀ p, t.oc.toNat ≤ p → Memory.lookup t.ovf p = Memory.lookup s.ovf p := by
  cases h with
  | kept codec =>
    obtain ⟨-, wbuf, ovf⟩ := codec
    exact ⟨fun _ _ => by rw [wbuf], fun _ _ => by rw [ovf]⟩
  | emptied _ _ wbuf ovf => exact ⟨fun _ _ => by rw [wbuf], fun _ _ => by rw [ovf]⟩
  | packed n _ _ packed => exact ⟨packed.outside, fun p hp => packed.side.outside p (packed.oc_eq ▸ hp)⟩

/-- Settles O24: the registers by what COMPRESS writes, the entries by its effect on the codec. -/
theorem compressFrame : Obligations.CompressFrame := by
  intro s t n h
  have outside := (exec_effect h).codec.same_outside_live
  obtain rfl : compress n s = t := by injection h
  rw [compress_eq] at outside ⊢
  exact ⟨rfl, rfl, rfl, .refl s, .refl s, outside⟩

/-- Settles O20: with n = 0 there is nothing to scan, and the codec registers alone are written. -/
theorem compressEmptyInput : Obligations.CompressEmptyInput := fun s =>
  ⟨compress 0 s, rfl, completed_complete _, rfl, rfl, rfl, rfl, rfl, rfl, rfl, .refl s, .refl s, fun _ => rfl,
    fun _ => rfl⟩

end Sys2Proof.Machine
end
section
/-! ## The pure readers (R85 to R88) -/

namespace Sys2Proof.Machine

theorem SameCodec.refl (s : State) : SameCodec s s :=
  ⟨⟨rfl, rfl, rfl, rfl, rfl, rfl, rfl⟩, fun _ => rfl, fun _ => rfl⟩

/-- R85: an element is a function of the codec state. -/
theorem KeepsCodec.element_eq {s t : State} (h : KeepsCodec s t) (i : Nat) : element t i = element s i := by
  obtain ⟨⟨mode, -, sentinel, -, k, -, -⟩, wbuf, ovf⟩ := h
  unfold element getOverflow
  rw [mode, sentinel, k, wbuf, ovf]

theorem decompress_keepsCodec (s : State) : KeepsCodec s (decompress s) := by
  rw [decompress_eq]; exact .refl s

/-- R88: beside OBUF, OLEN and the flags DECOMPRESS writes sequencer registers only. -/
theorem decompress_frame (s : State) :
    SameCodec s (decompress s) ∧ SameOutside s (decompress s) ∧ (decompress s).res = s.res := by
  rw [decompress_eq]; exact ⟨.refl s, .refl s, rfl⟩

theorem decompress_olen (s : State) : (decompress s).olen = s.n := by rw [decompress_eq]; rfl

/-- Settles O31: DECOMPRESS fills OBUF with the elements, and GET j returns element j. -/
theorem decompressWritesEveryGet : Obligations.DecompressWritesEveryGet := by
  intro s
  refine ⟨decompress s, rfl, completed_complete _, decompress_olen s, fun j hj => ⟨get j s, rfl, ?_⟩,
    fun j hj => ?_, ?_⟩
  · rw [decompress_lookup, if_pos hj, get_of_lt hj, complete_res]
  · rw [decompress_lookup, if_neg (by omega)]
  · obtain ⟨codec, outside, res⟩ := decompress_frame s
    exact ⟨res, codec, outside⟩

/-- R30: in a state that meets the register clauses OC is at most N. -/
theorem RegInv.oc_le {s : State} (inv : RegInv s) : s.oc.toNat ≤ s.n.toNat := by
  by_cases overflow : s.mode = .overflow
  · by_cases empty : s.n = 0
    · rw [inv.oc_zero empty]; exact Nat.zero_le _
    · have counts := inv.counts empty
      unfold LayoutCounts at counts
      rw [overflow] at counts
      obtain ⟨-, -, le⟩ := counts
      exact le
  · obtain ⟨-, -, zero⟩ := inv.config.2 overflow
    rw [zero]; exact Nat.zero_le _

/-- R30: and WC is at most N + 1, since no layout needs more words than fields. -/
theorem RegInv.wc_le {s : State} (inv : RegInv s) : s.wc.toNat ≤ s.n.toNat + 1 := by
  by_cases empty : s.n = 0
  · rw [inv.wc_zero.1 empty]; exact Nat.zero_le _
  · obtain ⟨one, top⟩ := inv.width empty
    have counts := inv.counts empty
    unfold LayoutCounts at counts
    split at counts
    · rw [counts]; exact (wcNonspan_le one top).trans (Nat.le_succ _)
    · rw [counts]; exact (wcSpan_le top).trans (Nat.le_succ _)
    · rw [counts.2.1]; exact wcSpan_le top

/-- R19, R20: the byte count fits RES whatever WC and OC hold. -/
theorem size_res_toNat (s : State) : (size s).res.toNat = 4 * s.wc.toNat + 4 * s.oc.toNat := by
  have := s.wc.isLt
  have := s.oc.isLt
  show (BitVec.ofNat 32 (4 * s.wc.toNat + 4 * s.oc.toNat)).toNat = _
  rw [BitVec.toNat_ofNat, Nat.mod_eq_of_lt (by omega)]

/-- Settles O32: the byte count is exact, and R30 bounds WC and OC by N + 1 and N. -/
theorem sizeCountsBytes : Obligations.SizeCountsBytes := by
  intro s
  refine ⟨size s, rfl, completed_complete _, size_res_toNat s, rfl, fun _ => rfl, .refl s, .refl s,
    fun inv empty => ?_, fun inv => ?_⟩
  · apply BitVec.eq_of_toNat_eq
    rw [size_res_toNat, inv.wc_zero.1 empty, inv.oc_zero empty]
    rfl
  · have := inv.wc_le
    have := inv.oc_le
    have := s.n.isLt
    rw [size_res_toNat]
    omega

/-- R85, R88: GET writes RES, the flags and the sequencer registers only. -/
theorem get_eq (i : Nat) (s : State) :
    get i s = { s with busy := false, errcode := (get i s).errcode, errinfo := (get i s).errinfo,
                       res := (get i s).res, seq := (get i s).seq } := by
  obtain ⟨-, e⟩ | ⟨-, e⟩ := get_cases i s <;> rw [e] <;> rfl

/-- R88: a second GET of the same element changes nothing. -/
theorem get_get (i : Nat) (s : State) : get i (get i s) = get i s := by
  obtain ⟨le, e⟩ | ⟨lt, e⟩ := get_cases i s
  · rw [e, get_of_le (s := raise _ _ s) le]; rfl
  · have live : i < (complete { s with res := element s i }).n.toNat := lt
    have same : element (complete { s with res := element s i }) i = element s i :=
      KeepsCodec.element_eq (.refl s) i
    rw [e, get_of_lt live, same]; rfl

/-- R88: a second DECOMPRESS leaves every entry of OBUF as it is. -/
theorem decompress_decompress_lookup (s : State) (j : Nat) :
    Memory.lookup (decompress (decompress s)).obuf j = Memory.lookup (decompress s).obuf j := by
  have codec := decompress_keepsCodec s
  obtain ⟨-, -, -, n, -⟩ := codec.1
  rw [decompress_lookup (decompress s), codec.element_eq, n]
  split
  · next live => rw [decompress_lookup, if_pos live]
  · rfl

theorem decompress_decompress_results (s : State) : SameResults (decompress s) (decompress (decompress s)) := by
  obtain ⟨-, -, res⟩ := decompress_frame (decompress s)
  obtain ⟨-, -, -, n, -⟩ := (decompress_keepsCodec s).1
  exact ⟨res, by rw [decompress_olen, decompress_olen, n], decompress_decompress_lookup s⟩

/-- Settles O33: each reader by what it writes, and by its second run. -/
theorem readersArePure : Obligations.ReadersArePure := by
  intro i s reader
  refine ⟨_, _, exec_eq i s, exec_eq i _, ?_⟩
  obtain ⟨j, rfl⟩ | rfl | rfl := reader
  · dsimp only
    rw [get_get, get_eq]
    exact ⟨.refl s, .refl s, fun _ => ⟨rfl, fun _ => rfl⟩, nofun, .refl _, rfl, rfl⟩
  · obtain ⟨codec, outside, res⟩ := decompress_frame s
    exact ⟨codec, outside, fun other => absurd rfl other, fun _ => res, decompress_decompress_results s, rfl, rfl⟩
  · exact ⟨.refl s, .refl s, fun _ => ⟨rfl, fun _ => rfl⟩, nofun, .refl _, rfl, rfl⟩

end Sys2Proof.Machine
end
section
/-! ## The bit-address calculator (R101, R104, R109) -/

namespace Sys2Proof.Machine

/-- R101: the width of a maximum below 2^32 fits a word. -/
theorem widthOf_le_32 {mx : Nat} (h : mx < 2 ^ 32) : widthOf mx ≤ 32 := (widthOf_le_iff mx 32 (by decide)).2 h

/-- Settles O47: `bitLength` is the least width, and `widthOf` is a width between 1 and 32 that holds its maximum. -/
theorem bitLengthIsLeast : Obligations.BitLengthIsLeast :=
  ⟨lt_two_pow_iff_bitLength_le, fun mx =>
    ⟨rfl, fun h => ⟨one_le_widthOf mx, widthOf_le_32 h, lt_two_pow_widthOf mx⟩⟩⟩

/-- R6: the multiples of the divisor up to the rounded-up quotient reach the dividend. -/
theorem le_ceilDiv_mul (a b : Nat) (hb : 1 ≤ b) : a ≤ ceilDiv a b * b :=
  not_lt.1 fun h => lt_irrefl _ ((lt_ceilDiv_iff _ a b hb).2 h)

/-- R104: a spanning buffer has at most w words when 32 * w bits hold its n fields. -/
theorem wcSpan_le_iff (n k w : Nat) : wcSpan n k ≤ w ↔ n * k ≤ w * 32 := by
  rw [← not_lt, ← not_lt]
  exact not_congr (lt_ceilDiv_iff w (n * k) 32 (by decide))

/-- R104: the words of the non-spanning layout hold n fields of k bits, so the spanning layout needs no more. -/
theorem wcSpan_le_wcNonspan {n k : Nat} (h1 : 1 ≤ k) (h32 : k ≤ 32) : wcSpan n k ≤ wcNonspan n k := by
  rw [wcSpan_le_iff]
  calc n * k
    _ ≤ wcNonspan n k * epw k * k := Nat.mul_le_mul_right k (le_ceilDiv_mul n (epw k) (one_le_epw h1 h32))
    _ = wcNonspan n k * (epw k * k) := Nat.mul_assoc ..
    _ ≤ wcNonspan n k * 32 := Nat.mul_le_mul_left _ (epw_mul_le k)

/-- R104: fields of 32 bits take a word each. -/
theorem wcSpan_32 (n : Nat) : wcSpan n 32 = n := by
  have enough := (wcSpan_le_iff n 32 _).1 le_rfl
  exact le_antisymm (wcSpan_le le_rfl) (Nat.le_of_mul_le_mul_right enough (by decide))

/-- Settles O48: the bounds of R104, each by what the words of a layout can hold. -/
theorem spanningNeedsNoMoreWords : Obligations.SpanningNeedsNoMoreWords := by
  intro n k pos h1 h32
  exact ⟨rfl, ceilDiv_pos (Nat.mul_pos pos h1) (by decide), wcSpan_le h32, fun h => h ▸ wcSpan_32 n,
    wcSpan_le_wcNonspan h1 h32⟩

/-- R109: a field that crosses ends in its second word, and it ends inside the c * k bits of the buffer. -/
theorem succ_arrayIndex_lt_wcSpan {c k i : Nat} (hi : i < c)
    (crossing : crosses (bitOffset (spanCursor i k)) k = true) : arrayIndex (spanCursor i k) + 1 < wcSpan c k := by
  have ends : i * k + k ≤ c * k := Nat.add_one_mul i k ▸ Nat.mul_le_mul_right k hi
  have past : 32 < i * k % 32 + k := of_decide_eq_true crossing
  refine (lt_ceilDiv_iff _ (c * k) 32 (by decide)).2 ?_
  unfold arrayIndex spanCursor
  omega

/-- Settles O49: the words a field starts and ends in, and its word in the non-spanning layout. -/
theorem wordIndexInsideBuffer : Obligations.WordIndexInsideBuffer := by
  intro c k i h1 h32 hi
  exact ⟨div_32_lt_wcSpan (Nat.mul_lt_mul_of_pos_right hi h1), succ_arrayIndex_lt_wcSpan hi,
    nonspanIndex_lt_wcNonspan h1 h32 hi⟩

end Sys2Proof.Machine
end
section
/-! ## The non-spanning layout: COMPRESS and GET in mode 0 (R103, R107, R120, R121, R123) -/

namespace Sys2Proof.Machine

/-- R101: the least width of supported inputs, as words, is that of their values. -/
theorem leastWidth_inputValue {s : State} {n k : Nat} (h : LeastWidth (fun j => (inputWord s j).toNat) n k)
    (supported : InputSupported s n) : LeastWidth (inputValue s) n k :=
  h.congr fun _ hj => (inputWord_toNat supported hj).1.symm

/-- R120: in lanes of supported inputs a bit of a lane is a bit of the input value. -/
theorem laneBit_inputWord {s : State} {n : Nat} (supported : InputSupported s n) (k a b : Nat) :
    laneBit (inputWord s) n k a b =
      (decide (b < epw k * k ∧ a * epw k + b / k < n) &&
        (inputValue s (a * epw k + b / k)).testBit (b % k)) := by
  unfold laneBit
  by_cases held : a * epw k + b / k < n
  · rw [← (inputWord_toNat supported held).1, BitVec.testBit_toNat]
  · simp [held]

/-- What `Packed` says in the layouts without a side array: the inputs themselves are packed, and OC is 0. -/
theorem Packed.plain {s t : State} {n : Nat} (h : Packed s n t) (mode : s.mode ≠ .overflow) :
    LeastWidth (fun j => (inputWord s j).toNat) n t.k.toNat ∧ t.wc.toNat = wordCount s.mode n t.k.toNat ∧
      t.oc = 0 ∧ HoldsBits (packedBit s.mode (inputWord s) n t.k.toNat) t.wc.toNat t.wbuf := by
  obtain ⟨-, width, wc, oc, bits, -, -, -⟩ := h
  rw [diverted_of_ne mode, countBelow_false] at oc
  rw [fieldCount_of_ne mode] at width wc bits
  rw [mainField_of_ne mode] at width bits
  exact ⟨width, wc, BitVec.eq_of_toNat_eq oc, bits⟩

/-- Settles O21: the packed codec of mode 0, its lanes read as bits of the input values. -/
theorem compressNonspanPacks : Obligations.CompressNonspanPacks := by
  intro s n mode pos le supported
  obtain ⟨completed, packed, -, -⟩ := compress_packs pos le supported
  obtain ⟨width, wc, oc, bits⟩ := packed.plain (by rw [mode]; decide)
  rw [mode] at wc bits
  exact ⟨_, rfl, completed, packed.n_eq, oc, leastWidth_inputValue width supported, wc,
    fun a ha b hb => (bits a ha b hb).trans (laneBit_inputWord supported _ a b)⟩

/-- R102: masking by k is the remainder modulo 2^k, for every k. -/
theorem and_mask_toNat (v : Word) (k : Nat) : (v &&& mask k).toNat = v.toNat % 2 ^ k := by
  refine Nat.eq_of_testBit_eq fun b => ?_
  rw [BitVec.testBit_toNat, getLsbD_and_mask, Nat.testBit_mod_two_pow, BitVec.testBit_toNat]

/-- R107, R123: the number in the lane of element i. -/
theorem getNonspan_toNat (m : Memory 32) (i k : Nat) :
    (getNonspan m i k).toNat =
      (readWbuf m (nonspanIndex i k)).toNat / 2 ^ nonspanOffset i k % 2 ^ k := by
  rw [getNonspan, and_mask_toNat, BitVec.toNat_ushiftRight, Nat.shiftRight_eq_div_pow]

theorem element_of_nonspan {s : State} (mode : s.mode = .nonspan) (i : Nat) :
    element s i = getNonspan s.wbuf i s.k.toNat := by
  unfold element; rw [mode]

/-- Settles O27: GET below N completes with the element, which in mode 0 is the number in its lane. -/
theorem getNonspanLane : Obligations.GetNonspanLane := by
  intro s i mode hi
  refine ⟨_, rfl, ?_⟩
  rw [get_of_lt hi, complete_res, element_of_nonspan mode]
  exact ⟨completed_complete _, getNonspan_toNat _ _ _⟩

end Sys2Proof.Machine
end
section
/-! ## The spanning layout: COMPRESS in mode 1 (R136, R138, R139) -/

namespace Sys2Proof.Machine

theorem digitSum_congr {v v' : Nat → Nat} {c : Nat} (same : ∀ j < c, v' j = v j) (k : Nat) :
    digitSum v' k c = digitSum v k c := by
  induction c with
  | zero => rfl
  | succ c ih => rw [digitSum, digitSum, ih fun j hj => same j (by omega), same c (by omega)]

/-- R139: c digits below 2^k make a number below 2^(c * k). -/
theorem digitSum_lt {v : Nat → Nat} {k c : Nat} (fits : ∀ j < c, v j < 2 ^ k) : digitSum v k c < 2 ^ (c * k) := by
  induction c with
  | zero => simp [digitSum]
  | succ c ih =>
    have low := ih fun j hj => fits j (by omega)
    calc digitSum v k c + v c * 2 ^ (c * k)
      _ < (v c + 1) * 2 ^ (c * k) := by rw [Nat.add_one_mul]; omega
      _ ≤ 2 ^ k * 2 ^ (c * k) := Nat.mul_le_mul_right _ (fits c (by omega))
      _ = 2 ^ ((c + 1) * k) := by rw [← Nat.pow_add, Nat.add_one_mul, Nat.add_comm]

/-- R139: bit p of the digit sum is bit p mod k of digit p div k. -/
theorem testBit_digitSum {v : Nat → Nat} {k c : Nat} (hk : 1 ≤ k) (fits : ∀ j < c, v j < 2 ^ k) (p : Nat) :
    (digitSum v k c).testBit p = (decide (p / k < c) && (v (p / k)).testBit (p % k)) := by
  induction c with
  | zero => simp [digitSum]
  | succ c ih =>
    have fits' : ∀ j < c, v j < 2 ^ k := fun j hj => fits j (by omega)
    have below : p < c * k ↔ p / k < c := (Nat.div_lt_iff_lt_mul hk).symm
    rw [digitSum, Nat.add_comm, Nat.mul_comm, Nat.testBit_two_pow_mul_add _ (digitSum_lt fits'), ih fits']
    rcases lt_trichotomy (p / k) c with lower | here | above
    · simp [below, lower, Nat.lt_succ_of_lt lower]
    · have position : p - c * k = p % k := by rw [← here, Nat.mod_eq_sub_div_mul]
      simp [below, here, position]
    · have past : c * k + k ≤ p := Nat.add_one_mul c k ▸ (Nat.le_div_iff_mul_le hk).1 above
      have high : (v c).testBit (p - c * k) = false :=
        Nat.testBit_lt_two_pow ((fits c (by omega)).trans_le (Nat.pow_le_pow_right (by decide) (by omega)))
      have outside : ¬ p / k < c + 1 := by omega
      simp [below, high, outside, above.not_gt]

/-- R139: a word of a spanning buffer is its 32 bits of the digit sum of the fields. -/
theorem HoldsBits.readWbuf_toNat {f : Nat → Word} {k c wc : Nat} {m : Memory 32}
    (h : HoldsBits (streamBit f c k) wc m) (hk : 1 ≤ k) (fits : ∀ j < c, (f j).toNat < 2 ^ k) {a : Nat} (ha : a < wc) :
    (readWbuf m a).toNat = digitSum (fun j => (f j).toNat) k c / 2 ^ (32 * a) % 2 ^ 32 := by
  refine Nat.eq_of_testBit_eq fun b => ?_
  rw [Nat.testBit_mod_two_pow, Nat.testBit_div_two_pow, testBit_digitSum hk fits, BitVec.testBit_toNat,
    BitVec.testBit_toNat, Nat.add_comm b]
  by_cases hb : b < 32
  · rw [h a ha b hb]
    simp [streamBit, hb]
  · simp [BitVec.getLsbD_of_ge _ b (not_lt.1 hb), hb]

/-- Settles O22: the packed codec of mode 1, its bits read as those of the digit sum of the input values. -/
theorem compressSpanPacks : Obligations.CompressSpanPacks := by
  intro s n mode pos le supported
  obtain ⟨completed, packed, -, -⟩ := compress_packs pos le supported
  obtain ⟨width, wc, oc, bits⟩ := packed.plain (by rw [mode]; decide)
  rw [mode] at wc bits
  refine ⟨_, rfl, completed, packed.n_eq, oc, leastWidth_inputValue width supported, wc, fun a ha => ?_⟩
  obtain ⟨one, fits, -⟩ := width
  rw [HoldsBits.readWbuf_toNat bits one fits ha, digitSum_congr fun j hj => (inputWord_toNat supported hj).1]

/-! ### Widths that divide 32 (R136, corner case) -/

theorem epw_mul_of_dvd {k : Nat} (divides : k ∣ 32) : epw k * k = 32 := Nat.div_mul_cancel divides

/-- R103, R104: where the width divides 32 the layouts take the same number of words. -/
theorem wcSpan_eq_wcNonspan {k : Nat} (h1 : 1 ≤ k) (divides : k ∣ 32) (n : Nat) : wcSpan n k = wcNonspan n k := by
  have h32 := Nat.le_of_dvd (by decide) divides
  refine eq_of_forall_lt_iff fun i => ?_
  rw [wcSpan, wcNonspan, lt_ceilDiv_iff _ _ _ (by decide), lt_ceilDiv_iff _ _ _ (one_le_epw h1 h32),
    ← epw_mul_of_dvd divides, ← Nat.mul_assoc, Nat.mul_lt_mul_right h1]

/-- R120, R139: where the width divides 32 each bit of the stream is the bit of a lane. -/
theorem streamBit_eq_laneBit {k b : Nat} (h1 : 1 ≤ k) (divides : k ∣ 32) (hb : b < 32) (f : Nat → Word) (c a : Nat) :
    streamBit f c k a b = laneBit f c k a b := by
  have whole := epw_mul_of_dvd divides
  have address : 32 * a + b = b + a * epw k * k := by rw [Nat.mul_assoc, whole]; omega
  unfold streamBit laneBit
  rw [address, Nat.add_mul_div_right _ _ h1, Nat.add_mul_mod_self_right, whole, Nat.add_comm (b / k)]
  simp [hb]

/-- Settles O26: both layouts pack the same inputs at the same least width, and where it divides 32 at the same bits. -/
theorem spanEqualsNonspanWhenWidthDivides : Obligations.SpanEqualsNonspanWhenWidthDivides := by
  intro s n pos le supported
  obtain ⟨-, lanes, -, -⟩ := compress_packs (s := { s with mode := .nonspan }) pos le supported
  obtain ⟨-, stream, -, -⟩ := compress_packs (s := { s with mode := .span }) pos le supported
  obtain ⟨width, wc, -, bits⟩ := lanes.plain nofun
  obtain ⟨width', wc', -, bits'⟩ := stream.plain nofun
  refine ⟨_, _, rfl, rfl, BitVec.eq_of_toNat_eq (width'.unique width), fun divides => ?_⟩
  rw [width'.unique width] at wc' bits'
  have counts := wc'.trans ((wcSpan_eq_wcNonspan width.1 divides n).trans wc.symm)
  rw [counts] at bits'
  refine ⟨BitVec.eq_of_toNat_eq counts, fun a ha => HoldsBits.readWbuf_eq bits (fun i hi b hb => ?_) ha⟩
  exact (bits' i hi b hb).trans (streamBit_eq_laneBit width.1 divides hb _ n i)

end Sys2Proof.Machine
end
section
/-! ## The spanning decoder: GET in mode 1 (R85, R105, R151) -/

namespace Sys2Proof.Machine

theorem element_of_span {s : State} (mode : s.mode = .span) (i : Nat) :
    element s i = getSpan s.wbuf i s.k.toNat := by
  unfold element; rw [mode]

/-- Settles O28: GET below N completes with the element, which in mode 1 is its field of the bitstream. -/
theorem getSpanField : Obligations.GetSpanField := by
  intro s i mode width hi
  refine ⟨_, rfl, ?_⟩
  rw [get_of_lt hi, complete_res, element_of_span mode, streamField_eq_getSpan _ _ _ width]
  exact ⟨completed_complete _, rfl⟩

end Sys2Proof.Machine
end
section
/-! ## The overflow layout: the dispatcher, COMPRESS and GET in mode 2 (R167 to R177) -/

namespace Sys2Proof.Machine

/-! ### The dispatcher (R167, R169) -/

/-- R167: the comparison of the dispatcher is unsigned and strict. -/
theorem diverts_eq_decide (v sentinel : Word) : diverts v sentinel = decide (sentinel.toNat ≤ v.toNat) := by
  rw [diverts, ← decide_not, decide_eq_decide, BitVec.lt_def, not_lt]

theorem dispatchField_of_lt {v sentinel : Word} (below : v.toNat < sentinel.toNat) : dispatchField v sentinel = v :=
  if_neg (by rw [diverts_eq_decide, decide_eq_true_eq]; omega)

theorem dispatchField_of_le {v sentinel : Word} (reached : sentinel.toNat ≤ v.toNat) :
    dispatchField v sentinel = sentinel :=
  if_pos (by rw [diverts_eq_decide, decide_eq_true_eq]; exact reached)

/-- R167: the main-stream field as a number. -/
theorem dispatchField_toNat (v sentinel : Word) :
    (dispatchField v sentinel).toNat = mainStream v.toNat sentinel.toNat := by
  unfold mainStream
  split
  · next below => rw [dispatchField_of_lt below]
  · next reached => rw [dispatchField_of_le (not_lt.1 reached)]

/-- R169: below a sentinel of at least 1 the synthetic element does not wrap around. -/
theorem synthetic_toNat {sentinel : Word} (pos : 1 ≤ sentinel.toNat) :
    (synthetic sentinel).toNat = sentinel.toNat - 1 :=
  BitVec.toNat_sub_of_le (BitVec.le_def.2 pos)

/-- Settles O50: the two branches of the dispatcher, by the unsigned comparison with the sentinel. -/
theorem dispatchIsStrict : Obligations.DispatchIsStrict := by
  intro v sentinel
  refine ⟨fun below => ⟨dispatchField_of_lt below, ?_⟩, fun reached => ⟨dispatchField_of_le reached, ?_⟩,
    dispatchField_eq_sentinel_iff v sentinel, fun kept => ?_⟩
  · rw [diverts_eq_decide, decide_eq_false_iff_not]; omega
  · rw [diverts_eq_decide, decide_eq_true_eq]; exact reached
  · rw [diverts_eq_decide, decide_eq_false_iff_not, not_le] at kept
    rw [dispatchField_of_lt kept]
    exact Nat.le_sub_one_of_lt kept

/-! ### COMPRESS in mode 2 (R168 to R172) -/

/-- R16: a legal sentinel is at least 1. -/
theorem OverflowLegal.one_le_sentinel {s : State} (legal : OverflowLegal s) (mode : s.mode = .overflow) :
    1 ≤ s.sentinel.toNat := by
  obtain ⟨one, -, sentinel⟩ := legal mode
  have : 2 ^ 1 ≤ 2 ^ s.mainBits.toNat := Nat.pow_le_pow_right (by decide) one
  omega

/-- R167: of supported inputs those at or above the sentinel are diverted. -/
theorem diverted_of_supported {s : State} {n j : Nat} (mode : s.mode = .overflow) (supported : InputSupported s n)
    (hj : j < n) : diverted s j = decide (s.sentinel.toNat ≤ inputValue s j) := by
  rw [diverted_of_overflow mode, diverts_eq_decide, (inputWord_toNat supported hj).1]

/-- R167, R168: among supported inputs the diverted ones are counted by their values. -/
theorem countBelow_diverted {s : State} {n c : Nat} (mode : s.mode = .overflow) (supported : InputSupported s n)
    (hc : c ≤ n) :
    countBelow (diverted s) c = countBelow (fun j => decide (s.sentinel.toNat ≤ inputValue s j)) c :=
  countBelow_congr fun _ hj => diverted_of_supported mode supported (hj.trans_le hc)

/-- R170: the n + 1 main-stream fields of supported inputs as numbers. -/
theorem mainField_toNat {s : State} {n j : Nat} (mode : s.mode = .overflow) (legal : OverflowLegal s)
    (supported : InputSupported s n) (hj : j < n + 1) :
    (mainField s n j).toNat =
      if j < n then mainStream (inputValue s j) s.sentinel.toNat else s.sentinel.toNat - 1 := by
  split
  · next input =>
    rw [mainField_of_lt mode input, dispatchField_toNat, (inputWord_toNat supported input).1]
  · next past =>
    obtain rfl : j = n := by omega
    rw [mainField_last mode, synthetic_toNat (legal.one_le_sentinel mode)]

/-- Settles O23: the packed codec of mode 2, whose width R171 forces to MAIN_BITS; its fields and its side array are
read as the numbers of the input. -/
theorem compressOverflowPacks : Obligations.CompressOverflowPacks := by
  intro s n mode legal pos le supported
  obtain ⟨completed, packed, -, -⟩ := compress_packs pos le supported
  obtain ⟨count, width, wc, oc, bits, side, -, -⟩ := packed
  rw [mode] at width wc bits
  have forced : (compress n s).k.toNat = s.mainBits.toNat := width.unique (leastWidth_mainBits mode legal n)
  rw [forced] at width wc bits
  refine ⟨_, rfl, completed, count, BitVec.eq_of_toNat_eq forced, wc,
    oc.trans (countBelow_diverted mode supported le_rfl), fun j hj reached => ?_, fun a ha => ?_⟩
  · have pass : diverted s j = true := by
      rw [diverted_of_supported mode supported hj, decide_eq_true_eq]; exact reached
    rw [← countBelow_diverted mode supported hj.le, side.entries j hj pass]
    exact (inputWord_toNat supported hj).1
  · obtain ⟨one, fits, -⟩ := width
    rw [HoldsBits.readWbuf_toNat (c := n + 1) bits one fits ha,
      digitSum_congr fun _ hj => mainField_toNat mode legal supported hj]

/-! ### GET in mode 2 (R175 to R177) -/

theorem element_of_overflow {s : State} (mode : s.mode = .overflow) (i : Nat) : element s i = getOverflow s i := by
  unfold element; rw [mode]

/-- R16, R151: a field holds the sentinel when the number in its bits is the sentinel's. -/
theorem streamField_eq_sentinel_iff (m : Memory 32) (i : Nat) {k : Nat} (hk : k ≤ 32) (sentinel : Word) :
    streamField m i k = sentinel.toNat ↔ getSpan m i k = sentinel := by
  rw [streamField_eq_getSpan m i k hk, BitVec.toNat_inj]

/-- R176: the rank counts the fields of the bitstream that hold the sentinel. -/
theorem rank_eq_countBelow_streamField (m : Memory 32) {k : Nat} (hk : k ≤ 32) (sentinel : Word) (i : Nat) :
    rank m k sentinel i = countBelow (fun j => decide (streamField m j k = sentinel.toNat)) i := by
  simp only [rank_eq_countBelow, streamField_eq_sentinel_iff m _ hk]

/-- R175: the element of mode 2 as a number, from the bitstream and the side array. -/
theorem getOverflow_toNat {s : State} (hk : s.k.toNat ≤ 32) (i : Nat) :
    (getOverflow s i).toNat =
      if streamField s.wbuf i s.k.toNat = s.sentinel.toNat then
        (readOvf s.ovf (countBelow (fun j => decide (streamField s.wbuf j s.k.toNat = s.sentinel.toNat)) i)).toNat
      else streamField s.wbuf i s.k.toNat := by
  unfold getOverflow
  dsimp only
  rw [rank_eq_countBelow_streamField _ hk]
  by_cases field : getSpan s.wbuf i s.k.toNat = s.sentinel
  · rw [if_pos field, if_pos ((streamField_eq_sentinel_iff _ _ hk _).2 field)]
  · rw [if_neg field, if_neg (mt (streamField_eq_sentinel_iff _ _ hk _).1 field), streamField_eq_getSpan _ _ _ hk]

/-- Settles O29: GET below N completes with the element, which in mode 2 is the field or the entry at its rank. -/
theorem getOverflowField : Obligations.GetOverflowField := by
  intro s i mode hk hi
  refine ⟨_, rfl, ?_⟩
  rw [get_of_lt hi, complete_res, element_of_overflow mode]
  exact ⟨completed_complete _, getOverflow_toNat hk i⟩

/-- Settles O30: R30 makes OC the number of all sentinel fields, and the rank counts those before one of them. -/
theorem overflowRankInRange : Obligations.OverflowRankInRange := by
  intro s i inv mode hi field
  have nonempty : s.n ≠ 0 := ne_zero_of_toNat_pos (Nat.one_le_of_lt hi)
  obtain ⟨-, hk⟩ := inv.regs.width nonempty
  rw [rank_eq_countBelow_streamField _ hk, inv.overflowCount mode nonempty]
  exact countBelow_lt _ hi (decide_eq_true ((streamField_eq_sentinel_iff _ _ hk _).2 field))

end Sys2Proof.Machine
end
section
/-! ## The error kinds (R190 to R198) -/

namespace Sys2Proof.Machine

/-! ### Every error goes through `raise` (R195) -/

theorem raise_failedWith (e : ErrorKind) (info : Word) (s : State) :
    FailedWith (errorCode e) info s (raise e info s) := rfl

theorem FailedWith.errcode_eq {code : BitVec 4} {info : Word} {s t : State} (h : FailedWith code info s t) :
    t.errcode = code := by
  unfold FailedWith at h; rw [h]

/-- R80, R203: a command leaves the block idle, whether it completes or raises. -/
theorem exec_idle {i : Instr} {s t : State} (h : exec i s = .next t) : t.busy = false := by
  obtain ⟨u, rfl⟩ | ⟨e, info, rfl⟩ := exec_completes_or_raises h
  · exact complete_busy u
  · exact raise_busy e info s

/-- Settles O16: a command that ends with a nonzero code did not complete, so it raised. -/
theorem failingCommandIsPrecise : Obligations.FailingCommandIsPrecise := by
  intro i s t h failed
  obtain ⟨u, rfl⟩ | ⟨e, info, rfl⟩ := exec_completes_or_raises h
  · exact absurd (complete_errcode u) failed
  · exact raise_failedWith e info s

/-- Settles O17: the capacity check comes before the scan of IBUF. -/
theorem compressOverCapacity : Obligations.CompressOverCapacity := by
  intro s n above
  refine ⟨compress n s, exec_eq _ s, ?_⟩
  rw [compress_of_over above]
  exact raise_failedWith _ _ s

/-- R112: an entry fails the sign test when its value is negative. -/
theorem isNegative_iff (v : Element) : isNegative v = true ↔ v.toInt < 0 := by
  rw [isNegative, BitVec.msb_eq_toInt, decide_eq_true_iff]

/-- Settles O18: the scan of R84 ends at the least negative entry. -/
theorem compressNegativeInput : Obligations.CompressNegativeInput := by
  intro s n j le hj negative before
  refine ⟨compress n s, exec_eq _ s, ?_⟩
  rw [compress_of_negative le hj ((isNegative_iff _).2 negative) ((inputSupported_iff s j).1 before)]
  exact raise_failedWith _ _ s

/-- Settles O19: the index is checked against N before the layout is looked at. -/
theorem getOutOfRange : Obligations.GetOutOfRange := by
  intro s i beyond
  refine ⟨get i s, exec_eq _ s, ?_⟩
  rw [get_of_le beyond]
  exact raise_failedWith _ _ s

/-! ### The code each command ends with (R198) -/

/-- R83: the code of CONFIG, from all that it can do. -/
theorem config_errcode {modef mbf : Nat} (hmodef : modef < 4) (hmbf : mbf < 64) (s : State) :
    (config modef mbf s).errcode =
      if modef = 3 then 2 else if modef = 2 ∧ (mbf < 1 ∨ 32 < mbf) then 3 else 0 := by
  obtain ⟨t, run, spec⟩ := configChoosesLayout s modef mbf hmodef hmbf
  obtain rfl : config modef mbf s = t := by injection run
  by_cases unknown : modef = 3
  · rw [if_pos unknown] at spec ⊢
    exact spec.errcode_eq
  rw [if_neg unknown] at spec ⊢
  by_cases invalid : modef = 2 ∧ (mbf < 1 ∨ 32 < mbf)
  · rw [if_pos invalid] at spec ⊢
    exact spec.errcode_eq
  · rw [if_neg invalid] at spec ⊢
    obtain ⟨⟨-, success, -⟩, -⟩ := spec
    exact success

theorem compress_errcode_of_over {s : State} {n : Nat} (above : s.nmax.toNat < n) : (compress n s).errcode = 5 := by
  rw [compress_of_over above]; rfl

/-- R194: with a negative entry among the first n, the scan finds one. -/
theorem compress_errcode_of_not_supported {s : State} {n : Nat} (le : n ≤ s.nmax.toNat)
    (unsupported : ¬ InputSupported s n) : (compress n s).errcode = 4 := by
  rw [inputSupported_iff] at unsupported
  obtain ⟨above, -⟩ | ⟨_, -, -, -, -, e⟩ | ⟨rfl, -⟩ | ⟨-, -, supported, -⟩ := compress_cases n s
  · exact absurd le (Nat.not_le.2 above)
  · rw [e]; rfl
  · exact absurd (fun i hi => absurd hi (Nat.not_lt_zero i)) unsupported
  · exact absurd supported unsupported

/-- R84: a COMPRESS of supported input succeeds, the empty input among them. -/
theorem compress_completed {s : State} {n : Nat} (le : n ≤ s.nmax.toNat) (supported : InputSupported s n) :
    Completed (compress n s) := by
  obtain rfl | pos := Nat.eq_zero_or_pos n
  · rw [compress_zero]; exact completed_complete _
  · exact (compress_packs pos le supported).1

/-- R85: the code of GET. -/
theorem get_errcode (j : Nat) (s : State) : (get j s).errcode = if s.n.toNat ≤ j then 1 else 0 := by
  split
  · next beyond => rw [get_of_le beyond]; rfl
  · next inside => rw [get_of_lt (Nat.not_le.1 inside)]; rfl

/-- Settles O15: one lemma per command for its code, and every command leaves the block idle. -/
theorem errorKindTable : Obligations.ErrorKindTable := by
  intro i s wf
  refine ⟨_, exec_eq i s, exec_idle (exec_eq i s), ?_⟩
  cases i with
  | config modef mbf =>
    simp only [Instr.wellFormed, Bool.and_eq_true, decide_eq_true_eq] at wf
    obtain ⟨hmodef, hmbf⟩ := wf
    exact config_errcode hmodef hmbf s
  | compress n =>
    refine ⟨compress_errcode_of_over, compress_errcode_of_not_supported, fun le supported => ?_⟩
    obtain ⟨-, success, -⟩ := compress_completed le supported
    exact success
  | get j => exact get_errcode j s
  | decompress => rfl
  | size => rfl

end Sys2Proof.Machine
end
section
/-! ## Reset and the hazards of a busy block (R215 to R217, R225, R230) -/

namespace Sys2Proof.Machine

/-! ### The reset event -/

theorem hostMove_reset (s : State) : hostMove .reset s = .next (resetEvent s) := rfl

/-- Settles O11: reset is no `whenIdle` move, and the reset event writes every register out. -/
theorem resetEventRegisters : Obligations.ResetEventRegisters := fun s =>
  ⟨resetEvent s, hostMove_reset s, rfl, rfl, rfl, rfl, rfl, rfl, rfl, rfl, rfl, rfl, rfl, rfl, rfl⟩

/-- Settles O12: the reset event keeps the cells of WBUF, OVF and OBUF, and its WC, OC and OLEN of 0 hide them all. -/
theorem resetEventMemories : Obligations.ResetEventMemories := fun s =>
  ⟨resetEvent s, hostMove_reset s, fun _ => rfl, fun _ => rfl, fun _ => rfl,
    fun a => ⟨rfl, entryData_of_empty rfl rfl rfl a⟩⟩

/-- R217: CONFIG to SPAN is the reset event but for IBUF, which a command does not touch. -/
theorem config_span_eq (mbf : Nat) (s : State) :
    config 1 mbf s = { resetEvent s with ibuf := s.ibuf, resets := s.resets } := rfl

/-- Settles O13: IBUF and the count of resets, where the two differ, are no registers. -/
theorem configSpanMatchesReset : Obligations.ConfigSpanMatchesReset := by
  intro s mbf
  refine ⟨config 1 mbf s, exec_eq _ s, ?_⟩
  rw [config_span_eq]
  exact ⟨⟨rfl, rfl, rfl, rfl, rfl, rfl, rfl⟩, rfl, rfl, rfl, rfl, rfl, rfl⟩

/-! ### A busy block -/

theorem hostMove_readStatus (s : State) :
    hostMove (.readReg 1) s = .next { s with answer := some (.word (statusWord s.busy s.errcode)) } := rfl

/-- R21: STATUS of a busy block is its error code in bits 11:8 and 1 in bit 0. -/
theorem statusWord_busy_toNat (errcode : BitVec 4) : (statusWord true errcode).toNat = errcode.toNat * 256 + 1 := by
  have := errcode.isLt
  rw [statusWord, BitVec.toNat_ofNat, Bool.toNat_true, Nat.mod_eq_of_lt (by omega)]

theorem whenIdle_of_busy {s : State} (busy : s.busy = true) (o : Host.Outcome State Fault Refusal) :
    whenIdle s o = .refused .busyAccess := if_pos busy

/-- R225: while the block is busy, a move other than reset and a STATUS read is refused. -/
theorem hostMove_of_busy {m : HostMove} {s : State} (busy : s.busy = true) (notStatus : m ≠ .readReg 1)
    (notReset : m ≠ .reset) : hostMove m s = .refused .busyAccess := by
  cases m with
  | reset => exact absurd rfl notReset
  | readReg r =>
    have other : r ≠ 1 := fun status => notStatus (congrArg HostMove.readReg status)
    exact (if_neg other).trans (whenIdle_of_busy busy _)
  | writeReg | readEntry | writeIbuf => exact whenIdle_of_busy busy _

/-- Settles O9: the step is the host's move, and BUSY gates every move but the two. -/
theorem busyHazard : Obligations.BusyHazard := by
  intro s m rest busy moves
  rw [step_of_moves moves]
  refine ⟨?status, ?reset, ?other⟩
  case status =>
    rintro rfl
    refine ⟨statusWord s.busy s.errcode, hostMove_readStatus _, ?_⟩
    rw [busy, statusWord_busy_toNat]
  case reset =>
    rintro rfl
    exact ⟨_, hostMove_reset _, rfl⟩
  case other => exact hostMove_of_busy (s := { s with moves := rest }) busy

end Sys2Proof.Machine
end
